-- ==== Sys2Proof/Word.lean ====
section
/-! DEFINITION. The word types of B3CORE (00_scope.md R7, R9, R10, R12): 32-bit words, bytes, 64-bit counters, and the
fixed-length word vectors. Every value of the spec is unsigned (R9), so `BitVec` addition is its `+` modulo `2^32` or `2^64`. -/

namespace Sys2Proof

/-- A `u32` (R10). -/
abbrev Word := BitVec 32

/-- A byte of input, output or key material (R13). -/
abbrev Byte := BitVec 8

/-- A `u64` counter, wrapping modulo `2^64` (R11). -/
abbrev Counter := BitVec 64

/-- A chaining value: exactly eight `u32` (R7 `CV_WORDS`, R18). -/
abbrev Cv := Vector Word 8

/-- Sixteen `u32`: block words, a compression state, or an output block (R7 `BLOCK_WORDS`, R12). -/
abbrev Words16 := Vector Word 16

/-- A byte offset of the 4096-byte register window, `0x000` to `0xFFF` (R61). -/
abbrev Offset := BitVec 12

end Sys2Proof
end

