-- ==== Sys2Proof/Syntax.lean ====
section
/-! DEFINITION. The command set (30_encoding.md R85): one constructor per row of `spec/opcode_table.json`. The only operand a
command word carries is the 8-bit `ARG` of `INIT_KEYED` and `ABSORB`, a count, so it is a natural number here; `WellFormed.lean`
bounds it to the field (R82). -/

namespace Sys2Proof

/-- A command of the block (R85). -/
inductive Instr where
  /-- `NOP` (R180). -/
  | nop
  /-- `RESET` (R181). -/
  | reset
  /-- `INIT_HASH` (R186). -/
  | initHash
  /-- `INIT_KEYED a`, `a` the key length in bytes the host declares (R188). -/
  | initKeyed (a : Nat)
  /-- `INIT_DERIVE_CONTEXT` (R190). -/
  | initDeriveContext
  /-- `INIT_DERIVE_MATERIAL` (R192). -/
  | initDeriveMaterial
  /-- `ABSORB n`, `n` the byte count (R140). -/
  | absorb (n : Nat)
  /-- `FINALIZE` (R210). -/
  | finalize
  /-- `SQUEEZE` (R212). -/
  | squeeze
  /-- `COMPRESS` (R115). -/
  | compress
  /-- `CLEAR_ERR` (R195). -/
  | clearErr
  deriving DecidableEq, Repr

end Sys2Proof
end

