-- ==== Sys2Proof/WellFormed.lean ====
section
/-! DEFINITION. Which commands a command word can carry: `ARG` is an 8-bit field, "an unsigned number `0..255`" (30_encoding.md
R82, R87). A length the command rejects (`ABSORB 65`, `INIT_KEYED 16`) is well formed: it decodes, and the error is an execution
error (R87). -/

namespace Sys2Proof

/-- R82, R87: the argument fits the 8-bit `ARG` field. -/
def Instr.wf : Instr → Bool
  | .nop => true
  | .reset => true
  | .initHash => true
  | .initKeyed a => decide (a < 256)
  | .initDeriveContext => true
  | .initDeriveMaterial => true
  | .absorb n => decide (n < 256)
  | .finalize => true
  | .squeeze => true
  | .compress => true
  | .clearErr => true

end Sys2Proof
end

