-- ==== Sys2Proof/Decode.lean ====
section
/-! DEFINITION. Decoding and encoding of the command word (30_encoding.md R80 to R90). The host port takes whole 32-bit words
(20_memory.md R62, R65), so a command is decoded from the word itself: no byte order is involved and every command is exactly one
word (R80, R90). -/

namespace Sys2Proof

/-! ### The fields of the command word (R80) -/

/-- R81: `OPCODE = c[7:0]`, an unsigned number. -/
def opcodeField (c : Word) : Nat := (c.extractLsb' 0 8).toNat

/-- R82: `ARG = c[15:8]`, an unsigned number, zero-extended where used. -/
def argField (c : Word) : Nat := (c.extractLsb' 8 8).toNat

/-- R83: `RSV = c[31:16]`. -/
def rsvField (c : Word) : Nat := (c.extractLsb' 16 16).toNat

/-! ### The decoder (R84) -/

/-- Why a word decodes to `ILLEGAL` (R84, R88). The three reasons end in the one error `ILLEGAL_COMMAND` (R232). -/
inductive Illegal where
  /-- `RSV != 0` (R83). -/
  | reservedBits
  /-- `OPCODE` in `0x0B..0xFF`. -/
  | unknownOpcode
  /-- `ARG != 0` on an opcode other than `0x03` and `0x06`. -/
  | argumentNotZero
  deriving DecidableEq, Repr

/-- A command that takes no argument decodes only with `ARG = 0` (R84). -/
def noArg (arg : Nat) (i : Instr) : Except Illegal Instr :=
  if arg = 0 then .ok i else .error .argumentNotZero

/-- The opcode map (R85). -/
def decodeOpcode (op arg : Nat) : Except Illegal Instr :=
  match op with
  | 0x00 => noArg arg .nop
  | 0x01 => noArg arg .reset
  | 0x02 => noArg arg .initHash
  | 0x03 => .ok (.initKeyed arg)
  | 0x04 => noArg arg .initDeriveContext
  | 0x05 => noArg arg .initDeriveMaterial
  | 0x06 => .ok (.absorb arg)
  | 0x07 => noArg arg .finalize
  | 0x08 => noArg arg .squeeze
  | 0x09 => noArg arg .compress
  | 0x0A => noArg arg .clearErr
  | _ => .error .unknownOpcode

/-- R84: every 32-bit word decodes to exactly one command or is illegal. -/
def decode (c : Word) : Except Illegal Instr :=
  if rsvField c ≠ 0 then .error .reservedBits else decodeOpcode (opcodeField c) (argField c)

/-- What the decoder reads from a table word: `nbits` bits of `w`, every bit above them 0. -/
def decodeTableWord (nbits w : Nat) : Option Instr :=
  match decode (BitVec.ofNat 32 (w % 2 ^ nbits)) with
  | .ok i => some i
  | .error _ => none

/-! ### The encoder (R86) -/

/-- The `OPCODE` number of a command (R85). -/
def opcodeOf : Instr → Nat
  | .nop => 0x00
  | .reset => 0x01
  | .initHash => 0x02
  | .initKeyed _ => 0x03
  | .initDeriveContext => 0x04
  | .initDeriveMaterial => 0x05
  | .absorb _ => 0x06
  | .finalize => 0x07
  | .squeeze => 0x08
  | .compress => 0x09
  | .clearErr => 0x0A

/-- The `ARG` a command carries, 0 where it takes none (R85). -/
def argOf : Instr → Nat
  | .initKeyed a => a
  | .absorb n => n
  | .nop => 0
  | .reset => 0
  | .initHash => 0
  | .initDeriveContext => 0
  | .initDeriveMaterial => 0
  | .finalize => 0
  | .squeeze => 0
  | .compress => 0
  | .clearErr => 0

/-- R80, R86: the command word, `OPCODE` in bits 7:0, the low 8 bits of the argument in 15:8, 0 in 31:16. -/
def encode (i : Instr) : Word := BitVec.ofNat 32 (opcodeOf i + 256 * (argOf i % 256))

/-! ### The match and mask columns of the table (R86) -/

/-- The `match` column of R86. -/
def matchOf (i : Instr) : Word := BitVec.ofNat 32 (opcodeOf i)

/-- The `mask` column of R86: the two commands with an argument leave bits 15:8 free. -/
def maskOf : Instr → Word
  | .initKeyed _ => 0xFFFF00FF
  | .absorb _ => 0xFFFF00FF
  | .nop => 0xFFFFFFFF
  | .reset => 0xFFFFFFFF
  | .initHash => 0xFFFFFFFF
  | .initDeriveContext => 0xFFFFFFFF
  | .initDeriveMaterial => 0xFFFFFFFF
  | .finalize => 0xFFFFFFFF
  | .squeeze => 0xFFFFFFFF
  | .compress => 0xFFFFFFFF
  | .clearErr => 0xFFFFFFFF

end Sys2Proof
end

