-- ==== Sys2Proof/Config.lean ====
section
/-! DEFINITION. The parameters of the hardware (00_scope.md R7 and R8) and the one parameter the spec leaves open to the
platform that a model can carry, `BASE` (20_memory.md R61). `LAT`, the other open parameter, is time and is not modelled (R275). -/

namespace Sys2Proof.Config

/-- R7 `BLOCK_LEN`: bytes in a block. -/
def blockLen : Nat := 64

/-- R7 `CHUNK_LEN`: bytes in a full chunk, 16 blocks. -/
def chunkLen : Nat := 1024

/-- R7 `ROUNDS`: rounds of one compression (R108). -/
def rounds : Nat := 7

/-- R7 `KEY_LEN`: bytes in a key. -/
def keyLen : Nat := 32

/-- R7 `OUT_BLOCK_LEN`: bytes in an output block. -/
def outBlockLen : Nat := 64

/-- R7 "default digest length": the bytes of a digest whose length the host does not give (R217). -/
def defaultDigestLen : Nat := 32

/-- R8 `STACK_DEPTH`: entries of the merge stack. -/
def stackDepth : Nat := 64

/-- R8 "`ABSORB` transfer size": the most bytes one `ABSORB` takes (R140). -/
def absorbMax : Nat := 64

/-- R62: the width in bits of the one access the host port defines. -/
def accessBits : Nat := 32

/-- R61: bytes in the register window. -/
def windowLen : Nat := 4096

/-- The 4096-byte page of the host's address map at which the platform puts the window. R61 leaves it open, so it has no body:
no proof can learn its value (DEDUCED, log entry 8). -/
opaque basePage : Nat

/-- R61 `BASE`: the host address of offset 0, "a 4096-byte-aligned host address". -/
def base : Nat := windowLen * basePage

/-- The host address of a byte offset of the window (R61: "every address in this spec is an offset from it"). -/
def hostAddress (o : Offset) : Nat := base + o.toNat

/-- The offset a host address names in this block's window, or `none` where the address is not one of this block's (R61, R78). -/
def windowOffset (a : Nat) : Option Offset :=
  if base ≤ a ∧ a < base + windowLen then some (BitVec.ofNat 12 (a - base)) else none

end Sys2Proof.Config
end

