-- ==== Sys2Proof/Machine/State.lean ====
section
/-! DEFINITION. The state of the block (10_state.md sections 2 and 4), its reset values (R58), the host's accesses that the core's
steps serve, and the reasons a step can stop. The constants of the hardware are not state (R57): `ID`, `CONFIG`, the IV, the
permutation and the flag values stand in `Config.lean`, `Machine/Operands.lean`, `Machine/Compression.lean` and `Machine/Flags.lean`. -/

namespace Sys2Proof.Machine

/-- `S.mode`, the mode of the current hasher (R32). Its three-bit value is `modeBits`; values 5 to 7 "are never produced" and
cannot be constructed (93_implementation_defined.md U15; DEDUCED, log entry 10). -/
inductive Mode where
  /-- 0: no hasher. -/
  | none
  /-- 1: plain hash. -/
  | plain
  /-- 2: keyed hash. -/
  | keyed
  /-- 3: key derivation, context phase. -/
  | deriveContext
  /-- 4: key derivation, material phase. -/
  | deriveMaterial
  deriving DecidableEq, Repr

/-- `S.errcode`, the code of the first recorded error (R31, R230). Its four-bit value is `errBits`; values 8 to 15 "are never
produced" and cannot be constructed (U15; DEDUCED, log entry 10). -/
inductive ErrCode where
  /-- 0: no error since `ERR` was last 0. -/
  | none
  /-- 1: `INIT_KEYED a` with `a != 32` (R234). -/
  | invalidKeyLength
  /-- 2: a word that decodes to `ILLEGAL` (R232). -/
  | illegalCommand
  /-- 3: a hashing command while `S.ready = 0` (R233). -/
  | notInitialized
  /-- 4: `ABSORB n` with `n > 64` (R235). -/
  | badLength
  /-- 5: `SQUEEZE` while `S.out_valid = 0` (R236). -/
  | noOutput
  /-- 6: a byte would start chunk `2^64` (R238). -/
  | counterOverflow
  /-- 7: `INIT_DERIVE_MATERIAL` while `S.mode != 3` (R237). -/
  | wrongMode
  deriving DecidableEq, Repr

/-- `S.onode`, the root node `FINALIZE` captured, without its counter and without `ROOT` in `d` (R55). -/
structure RootNode where
  /-- The node's input chaining value. -/
  cv : Cv
  /-- The node's sixteen block words. -/
  m : Words16
  /-- The node's block length in bytes. -/
  b : Word
  /-- The node's flags. -/
  d : Word
  deriving DecidableEq, Repr

/-- What the outside world does to the block (R16, R62, R261): one access on the host port, or the hardware reset input. The width
is in bits, so that an access of a width the port does not define can be stated (R63; DEDUCED, log entries 5 and 9). -/
inductive HostEvent where
  /-- A read at a byte offset of the window. -/
  | read (bits : Nat) (offset : Offset)
  /-- A write of `data` at a byte offset of the window. -/
  | write (bits : Nat) (offset : Offset) (data : Word)
  /-- The hardware reset input, between two accesses or in place of a command (R260, R261). -/
  | resetInput
  deriving DecidableEq, Repr

/-- The whole machine: the block's registers and hidden state, and the two fields of the host port that are the model's own. -/
structure State where
  /-- `S.ready` (R27). -/
  ready : Bool
  /-- `S.err` (R28). -/
  err : Bool
  /-- `S.fault` (R29). -/
  fault : Bool
  /-- `S.out_valid` (R30). -/
  outValid : Bool
  /-- `S.errcode` (R31). -/
  errcode : ErrCode
  /-- `S.err_cmd` (R33). -/
  errCmd : Word
  /-- `S.mode` (R32). -/
  mode : Mode
  /-- `S.key_cv` (R52). -/
  keyCv : Cv
  /-- `S.chunk_cv` (R53). -/
  chunkCv : Cv
  /-- `S.block`, the 64-byte block buffer (R53). -/
  block : Vector Byte 64
  /-- `S.block_len` in `0..64` (R53). -/
  blockLen : Fin 65
  /-- `S.blocks_done` in `0..15` (R53). -/
  blocksDone : Fin 16
  /-- `S.chunk_ctr` (R53). -/
  chunkCtr : Counter
  /-- `S.stack`, index 0 the oldest (R54). -/
  stack : List Cv
  /-- `S.onode` (R55). -/
  onode : RootNode
  /-- `S.out_ctr` (R55). -/
  outCtr : Counter
  /-- `KEY0..7` (R40). -/
  key : Vector Word 8
  /-- `DIN0..15` (R41). -/
  din : Words16
  /-- `DOUT0..15` (R42). -/
  dout : Words16
  /-- `CV_IN0..7` (R43). -/
  cvIn : Cv
  /-- `T_LO` (R44). -/
  tLo : Word
  /-- `T_HI` (R44). -/
  tHi : Word
  /-- `B_LEN` bits 7:0; its bits 31:8 are not stored and read as zero (R45). -/
  bLen : Byte
  /-- `D_FLAGS` (R46). -/
  dFlags : Word
  /-- `M_IN0..15` (R47). -/
  mIn : Words16
  /-- `CMP_OUT0..15` (R48). -/
  cmpOut : Words16
  /-- The model's own: the host's accesses not yet served, in the order the host issues them (R16, R67; DESIGN CHOICE, log entry 1). -/
  pending : List HostEvent
  /-- The model's own: the data the port has returned to the host's reads, oldest first (R62; DESIGN CHOICE, log entry 2). -/
  returned : List Word
  deriving DecidableEq, Repr

/-- Why the machine stops. -/
inductive Fault where
  /-- The host port answers an access with a bus error (R63, R64): "the model's run ends at that access with a "bus error" outcome"
  (R246). Raised by `hostRead` and `hostWrite`. Safe: it is the outcome the spec names (DEDUCED, log entry 5). -/
  | busError
  /-- `merge` needs a stack entry and there is none. Raised by `rotateChunk`, and in no state that meets `BlockInv`: "every `pop` finds
  an entry" and "No overflow or underflow error exists" (R166, R167). Safe: the spec gives no state that reaches it a behaviour (DEDUCED,
  log entry 6). -/
  | stackUnderflow
  deriving DecidableEq, Repr

/-- Why a command has no meaning in the model. -/
inductive Refusal where
  /-- An arm of `exec` that has no meaning yet. No arm uses it. Safe: the run stops where the hardware would go on. -/
  | notModelled (mnemonic : String)
  deriving DecidableEq, Repr

/-- What a command, a host access or a step answers. -/
abbrev Result := Host.Outcome State Fault Refusal

/-- `S.onode` after reset (R58). -/
def RootNode.zero : RootNode where
  cv := Vector.replicate 8 0
  m := Vector.replicate 16 0
  b := 0
  d := 0

/-- The block after reset (R58, R260), with no host access waiting and nothing yet returned to the host. -/
def State.reset : State where
  ready := false
  err := false
  fault := false
  outValid := false
  errcode := .none
  errCmd := 0
  mode := .none
  keyCv := Vector.replicate 8 0
  chunkCv := Vector.replicate 8 0
  block := Vector.replicate 64 0
  blockLen := 0
  blocksDone := 0
  chunkCtr := 0
  stack := []
  onode := RootNode.zero
  outCtr := 0
  key := Vector.replicate 8 0
  din := Vector.replicate 16 0
  dout := Vector.replicate 16 0
  cvIn := Vector.replicate 8 0
  tLo := 0
  tHi := 0
  bLen := 0
  dFlags := 0
  mIn := Vector.replicate 16 0
  cmpOut := Vector.replicate 16 0
  pending := []
  returned := []

end Sys2Proof.Machine
end

