-- ==== Sys2Proof/Machine/Flags.lean ====
section
/-! DEFINITION. The domain-separation flags and how they follow from the state (10_state.md R50, R51, 41_chunk.md R133), and the
status register's fields (R26 to R32). These are all the flag computations of the spec. -/

namespace Sys2Proof.Machine

/-! ### Domain-separation flag bits (R50; PRESUMED, log entry 12: the spec marks the values as general knowledge) -/

/-- R50: bit 0. -/
def flagChunkStart : Word := 0x01

/-- R50: bit 1. -/
def flagChunkEnd : Word := 0x02

/-- R50: bit 2. -/
def flagParent : Word := 0x04

/-- R50: bit 3. -/
def flagRoot : Word := 0x08

/-- R50: bit 4. -/
def flagKeyedHash : Word := 0x10

/-- R50: bit 5. -/
def flagDeriveKeyContext : Word := 0x20

/-- R50: bit 6. -/
def flagDeriveKeyMaterial : Word := 0x40

/-- R51: the mode flags of a mode. -/
def mflags : Mode → Word
  | .none => 0
  | .plain => 0
  | .keyed => flagKeyedHash
  | .deriveContext => flagDeriveKeyContext
  | .deriveMaterial => flagDeriveKeyMaterial

/-- R133: `start(S)`, `CHUNK_START` while no block of the chunk has been compressed, else 0. -/
def startFlag (s : State) : Word := if s.blocksDone = 0 then flagChunkStart else 0

/-! ### The status register (R26) -/

/-- R32: the three-bit value of `S.mode`. -/
def modeBits : Mode → BitVec 3
  | .none => 0
  | .plain => 1
  | .keyed => 2
  | .deriveContext => 3
  | .deriveMaterial => 4

/-- R230: the four-bit value of `S.errcode`. -/
def errBits : ErrCode → BitVec 4
  | .none => 0
  | .invalidKeyLength => 1
  | .illegalCommand => 2
  | .notInitialized => 3
  | .badLength => 4
  | .noOutput => 5
  | .counterOverflow => 6
  | .wrongMode => 7

/-- One status bit as a word. -/
def bitWord (b : Bool) : Word := if b then 1 else 0

/-- R26: the value of `STATUS`. -/
def statusWord (s : State) : Word :=
  (modeBits s.mode).setWidth 32 <<< 16 ||| (errBits s.errcode).setWidth 32 <<< 8 ||| bitWord s.outValid <<< 3
    ||| bitWord s.fault <<< 2 ||| bitWord s.err <<< 1 ||| bitWord s.ready

end Sys2Proof.Machine
end

