-- ==== Sys2Proof/Machine/Operands.lean ====
section
/-! DEFINITION. The operands of the commands: the register map of the window (10_state.md R22), what each register reads as and
what a write to it stores (R23 to R48), and the little-endian packing of bytes in words (00_scope.md R13, 20_memory.md R75 to
R77). A command names no register in its word (R20, R82): the registers it reads are fixed by its rule. -/

namespace Sys2Proof.Machine

/-! ### Words, bytes and counters (R11, R13) -/

/-- R11: `low32(t) = t[31:0]`. -/
def low32 (t : Counter) : Word := t.extractLsb' 0 32

/-- R11: `high32(t) = t[63:32]`. -/
def high32 (t : Counter) : Word := t.extractLsb' 32 32

/-- R13: `le_word(b0, b1, b2, b3)`. -/
def leWord (b0 b1 b2 b3 : Byte) : Word :=
  b0.setWidth 32 ||| b1.setWidth 32 <<< 8 ||| b2.setWidth 32 <<< 16 ||| b3.setWidth 32 <<< 24

/-- R13: the four bytes of a word in byte order, `w[7:0]` first. -/
def wordBytes (w : Word) : List Byte :=
  [w.extractLsb' 0 8, w.extractLsb' 8 8, w.extractLsb' 16 8, w.extractLsb' 24 8]

/-- R13: `bytes_le(w)` of a word sequence. -/
def bytesLe (ws : List Word) : List Byte := ws.flatMap wordBytes

/-- Word `i` of `words_le(bs)`: the string is padded with zero bytes (R13). -/
def leWordAt (bs : List Byte) (i : Nat) : Word :=
  leWord (bs.getD (4 * i) 0) (bs.getD (4 * i + 1) 0) (bs.getD (4 * i + 2) 0) (bs.getD (4 * i + 3) 0)

/-- R13: `words_le(bs)` of a string of at most 64 bytes, sixteen words. -/
def wordsLe (bs : List Byte) : Words16 := Vector.ofFn fun i => leWordAt bs i.val

/-- R13: `words_le` of a 32-byte string, eight words. -/
def keyWordsLe (bs : List Byte) : Vector Word 8 := Vector.ofFn fun i => leWordAt bs i.val

/-! ### The register map (R22) -/

/-- A host-visible register (R22). -/
inductive Reg where
  | id
  | config
  | status
  | cmd
  | chunkCtrLo
  | chunkCtrHi
  | chunkLen
  | stackDepth
  | outCtrLo
  | outCtrHi
  | modeFlags
  | errCmd
  | key (k : Fin 8)
  | din (k : Fin 16)
  | dout (k : Fin 16)
  | cvIn (k : Fin 8)
  | tLo
  | tHi
  | bLen
  | dFlags
  | mIn (k : Fin 16)
  | cmpOut (k : Fin 16)
  deriving DecidableEq, Repr

/-- An access class (R23). -/
inductive Access where
  /-- `RO`: a host write is a bus error. -/
  | ro
  /-- `RW`: a host read returns the last value written. -/
  | rw
  /-- `WO`: a host read is a bus error. -/
  | wo
  deriving DecidableEq, Repr

/-- The "access" column of R22. -/
def accessOf : Reg → Access
  | .id => .ro
  | .config => .ro
  | .status => .ro
  | .cmd => .wo
  | .chunkCtrLo => .ro
  | .chunkCtrHi => .ro
  | .chunkLen => .ro
  | .stackDepth => .ro
  | .outCtrLo => .ro
  | .outCtrHi => .ro
  | .modeFlags => .ro
  | .errCmd => .ro
  | .key _ => .rw
  | .din _ => .rw
  | .dout _ => .ro
  | .cvIn _ => .rw
  | .tLo => .rw
  | .tHi => .rw
  | .bLen => .rw
  | .dFlags => .rw
  | .mIn _ => .rw
  | .cmpOut _ => .ro

/-- The byte offset of word `k` of an array of registers that begins at `start` (R22: "`start` + 4k"). -/
def arrayOffset (start k : Nat) : Offset := BitVec.ofNat 12 (start + 4 * k)

/-- The "offset" column of R22; `off(REG)` of R91. -/
def regOffset : Reg → Offset
  | .id => 0x000
  | .config => 0x004
  | .status => 0x008
  | .cmd => 0x00C
  | .chunkCtrLo => 0x010
  | .chunkCtrHi => 0x014
  | .chunkLen => 0x018
  | .stackDepth => 0x01C
  | .outCtrLo => 0x020
  | .outCtrHi => 0x024
  | .modeFlags => 0x028
  | .errCmd => 0x02C
  | .key k => arrayOffset 0x040 k.val
  | .din k => arrayOffset 0x080 k.val
  | .dout k => arrayOffset 0x0C0 k.val
  | .cvIn k => arrayOffset 0x100 k.val
  | .tLo => 0x120
  | .tHi => 0x124
  | .bLen => 0x128
  | .dFlags => 0x12C
  | .mIn k => arrayOffset 0x140 k.val
  | .cmpOut k => arrayOffset 0x180 k.val

/-- The register of word `w` of the window (byte offset `4 * w`), or `none` where the offset is reserved (R22, R64). -/
def regOfWord (w : Nat) : Option Reg :=
  match w with
  | 0 => some .id
  | 1 => some .config
  | 2 => some .status
  | 3 => some .cmd
  | 4 => some .chunkCtrLo
  | 5 => some .chunkCtrHi
  | 6 => some .chunkLen
  | 7 => some .stackDepth
  | 8 => some .outCtrLo
  | 9 => some .outCtrHi
  | 10 => some .modeFlags
  | 11 => some .errCmd
  | 72 => some .tLo
  | 73 => some .tHi
  | 74 => some .bLen
  | 75 => some .dFlags
  | w =>
    if 16 ≤ w ∧ w < 24 then some (.key (Fin.ofNat 8 (w - 16)))
    else if 32 ≤ w ∧ w < 48 then some (.din (Fin.ofNat 16 (w - 32)))
    else if 48 ≤ w ∧ w < 64 then some (.dout (Fin.ofNat 16 (w - 48)))
    else if 64 ≤ w ∧ w < 72 then some (.cvIn (Fin.ofNat 8 (w - 64)))
    else if 80 ≤ w ∧ w < 96 then some (.mIn (Fin.ofNat 16 (w - 80)))
    else if 96 ≤ w ∧ w < 112 then some (.cmpOut (Fin.ofNat 16 (w - 96)))
    else none

/-- The register at a byte offset, or `none` where the offset is misaligned or reserved (R22, R63 cases 1 and 3, R64). -/
def regAt (o : Offset) : Option Reg :=
  if o.toNat % 4 = 0 then regOfWord (o.toNat / 4) else none

/-! ### What a register reads as (R24 to R48) -/

/-- R24: the constant of `ID`. -/
def idWord : Word := 0x42330007

/-- R25: the constant of `CONFIG`, `STACK_ENTRIES` in bits 7:0 and `ROUNDS` in bits 11:8. -/
def configWord : Word := BitVec.ofNat 32 (Config.stackDepth + 256 * Config.rounds)

/-- R132: `chunk_len(S) = 64 * S.blocks_done + S.block_len`. -/
def chunkLen (s : State) : Nat := Config.blockLen * s.blocksDone.val + s.blockLen.val

/-- The value a register holds for a host read, `none` for the write-only `CMD` (R23, R34). -/
def readReg (r : Reg) (s : State) : Option Word :=
  match r with
  | .id => some idWord
  | .config => some configWord
  | .status => some (statusWord s)
  | .cmd => none
  | .chunkCtrLo => some (low32 s.chunkCtr)
  | .chunkCtrHi => some (high32 s.chunkCtr)
  | .chunkLen => some (BitVec.ofNat 32 (chunkLen s))
  | .stackDepth => some (BitVec.ofNat 32 s.stack.length)
  | .outCtrLo => some (low32 s.outCtr)
  | .outCtrHi => some (high32 s.outCtr)
  | .modeFlags => some (mflags s.mode)
  | .errCmd => some s.errCmd
  | .key k => some s.key[k]
  | .din k => some s.din[k]
  | .dout k => some s.dout[k]
  | .cvIn k => some s.cvIn[k]
  | .tLo => some s.tLo
  | .tHi => some s.tHi
  | .bLen => some (s.bLen.setWidth 32)
  | .dFlags => some s.dFlags
  | .mIn k => some s.mIn[k]
  | .cmpOut k => some s.cmpOut[k]

/-- What a write of `v` to an `RW` register stores (R23, R40 to R47); `B_LEN` keeps bits 7:0 only (R45). A register of another
class is not stored to (R23): the host port does not write it (`hostWrite`). -/
def writeReg (r : Reg) (v : Word) (s : State) : State :=
  match r with
  | .key k => { s with key := s.key.set k v }
  | .din k => { s with din := s.din.set k v }
  | .cvIn k => { s with cvIn := s.cvIn.set k v }
  | .tLo => { s with tLo := v }
  | .tHi => { s with tHi := v }
  | .bLen => { s with bLen := v.setWidth 8 }
  | .dFlags => { s with dFlags := v }
  | .mIn k => { s with mIn := s.mIn.set k v }
  | .id => s
  | .config => s
  | .status => s
  | .cmd => s
  | .chunkCtrLo => s
  | .chunkCtrHi => s
  | .chunkLen => s
  | .stackDepth => s
  | .outCtrLo => s
  | .outCtrHi => s
  | .modeFlags => s
  | .errCmd => s
  | .dout _ => s
  | .cmpOut _ => s

/-! ### The operands of each command -/

/-- The key operand of `INIT_KEYED`: `[x[KEY0], .., x[KEY7]]` (R188). -/
def keyOperand (s : State) : Cv := s.key

/-- The data operand of `ABSORB n`: `bytes_le([x[DIN0], .., x[DIN15]])[0 .. n]` (R140). -/
def absorbOperand (n : Nat) (s : State) : List Byte := (bytesLe s.din.toList).take n

/-- The chaining-value operand of `COMPRESS` (R43, R115). -/
def cvOperand (s : State) : Cv := s.cvIn

/-- The block operand of `COMPRESS` (R47, R115). -/
def blockOperand (s : State) : Words16 := s.mIn

/-- The counter operand of `COMPRESS`: `t = x[T_HI] << 32 | x[T_LO]` (R44). -/
def counterOperand (s : State) : Counter := s.tHi.setWidth 64 <<< 32 ||| s.tLo.setWidth 64

/-- The block-length operand of `COMPRESS`: `zext_32(x[B_LEN][7:0])` (R45, R115). -/
def blockLenOperand (s : State) : Word := s.bLen.setWidth 32

/-- The flags operand of `COMPRESS`, "with no legality check" (R46). -/
def flagsOperand (s : State) : Word := s.dFlags

end Sys2Proof.Machine
end

