-- ==== Sys2Proof/Machine/Ops.lean ====
section
/-! DEFINITION. The operations the commands share: rotation (00_scope.md R10), the error record and `raise`, which are this
block's whole exception entry (60_exceptions.md R240, R243), the overflow fault (42_tree.md R168), the fault stop (R241), the reset
action (R260), and starting a chunk or a hasher (R131, R182). There is no return from an error but `CLEAR_ERR` (R244), whose
operation is `clearRecord`. -/

namespace Sys2Proof.Machine

/-- R10: `rotr(x, n)` for `0 < n < 32`, the right rotation of a 32-bit word. -/
def rotr (x : Word) (n : Nat) : Word := x >>> n ||| x <<< (32 - n)

/-! ### Errors (R240, R241, R243, R244) -/

/-- R240: `record_error(E, c)`. The first error since `S.err` was last 0 is kept. -/
def recordError (e : ErrCode) (c : Word) (s : State) : State :=
  if s.err then s else { s with err := true, errcode := e, errCmd := c }

/-- R240: `raise E(c)` ends the command with the error recorded and nothing else changed. -/
def raiseError (e : ErrCode) (c : Word) (s : State) : Result := .next (recordError e c s)

/-- R168: `chunk_overflow_fault()` under command word `c`. -/
def chunkOverflowFault (c : Word) (s : State) : State := { recordError .counterOverflow c s with fault := true }

/-- R195: the error record cleared. -/
def clearRecord (s : State) : State := { s with err := false, errcode := .none, errCmd := 0 }

/-- R241: while `S.fault = 1` the command is ignored, else it runs (DESIGN CHOICE, log entry 16). -/
def unlessFaulted (s : State) (run : Result) : Result := if s.fault then .next s else run

/-! ### Reset (R260) -/

/-- R260: `reset()` puts every piece of the block's state to its R58 value. The accesses the host has yet to issue and the data it
has been given are the host's, not the block's (R57), and stay. -/
def resetAction (s : State) : State := { State.reset with pending := s.pending, returned := s.returned }

/-! ### Starting a chunk and a hasher -/

/-- R131: `fresh_chunk(k)`. -/
def freshChunk (k : Counter) (s : State) : State :=
  { s with
    chunkCv := s.keyCv
    block := Vector.replicate 64 0
    blockLen := 0
    blocksDone := 0
    chunkCtr := k }

/-- R182: `hasher_init(key, mode)`. -/
def hasherInit (key : Cv) (mode : Mode) (s : State) : State :=
  { freshChunk 0 { s with keyCv := key, mode := mode, stack := [] } with
    outValid := false
    outCtr := 0
    ready := true }

end Sys2Proof.Machine
end

