-- ==== Sys2Proof/Machine/Compression.lean ====
section
/-! DEFINITION. The compression unit (40_compression.md): the quarter-round mixer, the round function, the message schedule, the
compression function, and the `COMPRESS` command. -/

namespace Sys2Proof.Machine

/-- R100: the initialization vector. -/
def iv : Cv := #v[0x6A09E667, 0xBB67AE85, 0x3C6EF372, 0xA54FF53A, 0x510E527F, 0x9B05688C, 0x1F83D9AB, 0x5BE0CD19]

/-! ### The mixer and the round -/

/-- R101: `g(v, a, b, c, d, mx, my)`, each line reading what the lines before it wrote. -/
def g (v : Words16) (a b c d : Fin 16) (mx my : Word) : Words16 :=
  let v := v.set a (v[a] + v[b] + mx)
  let v := v.set d (rotr (v[d] ^^^ v[a]) 16)
  let v := v.set c (v[c] + v[d])
  let v := v.set b (rotr (v[b] ^^^ v[c]) 12)
  let v := v.set a (v[a] + v[b] + my)
  let v := v.set d (rotr (v[d] ^^^ v[a]) 8)
  let v := v.set c (v[c] + v[d])
  v.set b (rotr (v[b] ^^^ v[c]) 7)

/-- One row of the G index table (R106): the four state indices and the two message-word indices of a call. -/
structure GCall where
  a : Fin 16
  b : Fin 16
  c : Fin 16
  d : Fin 16
  mx : Fin 16
  my : Fin 16
  deriving DecidableEq, Repr

/-- R106: the G index table, four column calls and then four diagonal calls (the message words PRESUMED, log entry 12). -/
def gTable : List GCall :=
  [⟨0, 4, 8, 12, 0, 1⟩, ⟨1, 5, 9, 13, 2, 3⟩, ⟨2, 6, 10, 14, 4, 5⟩, ⟨3, 7, 11, 15, 6, 7⟩,
    ⟨0, 5, 10, 15, 8, 9⟩, ⟨1, 6, 11, 12, 10, 11⟩, ⟨2, 7, 8, 13, 12, 13⟩, ⟨3, 4, 9, 14, 14, 15⟩]

/-- One call of a round under message vector `m` (R107). -/
def gCall (m : Words16) (v : Words16) (r : GCall) : Words16 := g v r.a r.b r.c r.d m[r.mx] m[r.my]

/-- R107: `round(v, m)`, the calls of R106 in order. -/
def mixRound (v m : Words16) : Words16 := gTable.foldl (gCall m) v

/-! ### The message schedule -/

/-- R109: the message permutation table. -/
def perm : Vector (Fin 16) 16 := #v[2, 6, 3, 10, 7, 0, 4, 13, 1, 11, 12, 5, 9, 14, 15, 8]

/-- R109: `permute(m)[i] = m[PERM[i]]`. -/
def permute (m : Words16) : Words16 := Vector.ofFn fun i => m[perm[i]]

/-- R108, R112: `n` rounds, the message words permuted between rounds and not after the last. -/
def rounds : Nat → Words16 → Words16 → Words16
  | 0, v, _ => v
  | 1, v, m => mixRound v m
  | n + 2, v, m => rounds (n + 1) (mixRound v m) (permute m)

/-! ### The compression function -/

/-- R111: `cv[0..8] ∥ IV[0..4] ∥ [low32(t), high32(t), b, d]`. -/
def initState (cv : Cv) (t : Counter) (b d : Word) : Words16 :=
  cv ++ #v[iv[0], iv[1], iv[2], iv[3], low32 t, high32 t, b, d]

/-- R112: `out[i] = v[i] ^ v[i+8]` and `out[i+8] = v[i+8] ^ cv[i]`, for `i` in `0..8`. -/
def feedForward (v : Words16) (cv : Cv) : Words16 :=
  Vector.ofFn fun i => if _h : i.val < 8 then v[i.val] ^^^ v[i.val + 8] else v[i.val] ^^^ cv[i.val - 8]

/-- R112: `compress(cv, blk, t, b, d)`. -/
def compress (cv : Cv) (blk : Words16) (t : Counter) (b d : Word) : Words16 :=
  feedForward (rounds Config.rounds (initState cv t b d) blk) cv

/-- R113: `cv_of(out) = out[0..8]`. -/
def cvOf (out : Words16) : Cv := Vector.ofFn fun i => out[i.val]

/-! ### The command -/

/-- R115: `COMPRESS`. It needs no hasher and has no error of its own; while `S.fault = 1` it is ignored. -/
def execCompress (s : State) : Result :=
  unlessFaulted s (.next { s with
    cmpOut := compress (cvOperand s) (blockOperand s) (counterOperand s) (blockLenOperand s) (flagsOperand s) })

end Sys2Proof.Machine
end

