-- ==== Sys2Proof/Machine/Tree.lean ====
section
/-! DEFINITION. Tree nodes and the tree-merge stack (42_tree.md): the parent node, the binary-counter merge and the root fold. The
spec's stack has index 0 the oldest (R54), so the newest entry, which `pop` removes, is the last of the list. -/

namespace Sys2Proof.Machine

/-- R160: a tree node, "the five compression inputs". -/
structure TreeNode where
  cv : Cv
  blk : Words16
  t : Counter
  b : Word
  d : Word
  deriving DecidableEq, Repr

/-- R161: `node_compress(n)`. -/
def nodeCompress (n : TreeNode) : Words16 := compress n.cv n.blk n.t n.b n.d

/-- R161: a node's chaining value. -/
def chainingValue (n : TreeNode) : Cv := cvOf (nodeCompress n)

/-- R162: the block words of a parent node, `left[0..8] ∥ right[0..8]`. -/
def parentBlock (left right : Cv) : Words16 := left ++ right

/-- R162: `parent_node(left, right)` of a hasher whose `S.key_cv` is `key` and whose `S.mode` is `mode` (its `cv` PRESUMED, log
entry 12). -/
def parentNode (key : Cv) (mode : Mode) (left right : Cv) : TreeNode where
  cv := key
  blk := parentBlock left right
  t := 0
  b := 64
  d := mflags mode ||| flagParent

/-- R165: the loop of `merge(ccv, total)` over the stack with its newest entry first. `none` where a `pop` finds no entry. -/
def mergeLoop (key : Cv) (mode : Mode) : List Cv → Counter → Cv → Option (List Cv)
  | st, total, ccv =>
    if total[0] then some (ccv :: st)
    else
      match st with
      | [] => none
      | left :: rest => mergeLoop key mode rest (total >>> 1) (chainingValue (parentNode key mode left ccv))

/-- R165: `merge(ccv, total)`. `none` where a `pop` finds no entry, which R166 and R167 exclude. -/
def merge (ccv : Cv) (total : Counter) (s : State) : Option State :=
  match mergeLoop s.keyCv s.mode s.stack.reverse total ccv with
  | some st => some { s with stack := st.reverse }
  | none => none

/-- R170: the loop of `root_node(S)`, from the newest stack entry to the oldest. -/
def foldRoot (key : Cv) (mode : Mode) : List Cv → TreeNode → TreeNode
  | [], n => n
  | entry :: older, n => foldRoot key mode older (parentNode key mode entry (chainingValue n))

end Sys2Proof.Machine
end

