-- ==== Sys2Proof/Machine/Chunk.lean ====
section
/-! DEFINITION. The chunk accumulator, its block buffer and the `ABSORB` command (41_chunk.md). -/

namespace Sys2Proof.Machine

/-- R138: `chunk_node(S)`, the tree node of the current chunk as it stands. -/
def chunkNode (s : State) : TreeNode where
  cv := s.chunkCv
  blk := wordsLe (s.block.toList.take s.blockLen.val)
  t := s.chunkCtr
  b := BitVec.ofNat 32 s.blockLen.val
  d := mflags s.mode ||| startFlag s ||| flagChunkEnd

/-- R170: `root_node(S)`, the root of everything absorbed so far. -/
def rootNode (s : State) : TreeNode := foldRoot s.keyCv s.mode s.stack.reverse (chunkNode s)

/-- R137: `compress_block()`, called only on a full block of a chunk that is not full. -/
def compressBlock (s : State) : State :=
  { s with
    chunkCv := cvOf (compress s.chunkCv (wordsLe s.block.toList) s.chunkCtr 64 (mflags s.mode ||| startFlag s))
    blocksDone := Fin.ofNat 16 (s.blocksDone.val + 1)
    block := Vector.replicate 64 0
    blockLen := 0 }

/-- R135, its last two lines: `S.block[S.block_len] <- x; S.block_len <- S.block_len + 1`, on a block that is not full. -/
def storeByte (x : Byte) (s : State) : State :=
  { s with
    block := s.block.setIfInBounds s.blockLen.val x
    blockLen := Fin.ofNat 65 (s.blockLen.val + 1) }

/-- R135, its first `if`, under command word `c`: a full chunk is finalized and merged and a new one begun, or the overflow fault is
taken where the count of completed chunks wraps to 0 (R168). -/
def rotateChunk (c : Word) (s : State) : Result :=
  if chunkLen s = Config.chunkLen then
    if s.chunkCtr + 1 = 0 then .next (chunkOverflowFault c s)
    else
      match merge (chainingValue (chunkNode s)) (s.chunkCtr + 1) s with
      | some s' => .next (freshChunk (s.chunkCtr + 1) s')
      | none => .fault .stackUnderflow
  else .next s

/-- R135, its second `if` and what follows it: a full block is compressed before the byte is stored (R134; PRESUMED,
log entry 12). -/
def bufferByte (x : Byte) (s : State) : State :=
  storeByte x (if s.blockLen.val = Config.blockLen then compressBlock s else s)

/-- R135: `absorb_byte(x)` under command word `c`. A byte that takes the overflow fault is not absorbed. -/
def absorbByte (c : Word) (x : Byte) (s : State) : Result :=
  match rotateChunk c s with
  | .next s' => if s'.fault then .next s' else .next (bufferByte x s')
  | .fault r => .fault r
  | .refused r => .refused r

/-- R140, its loop: the bytes in order, the rest abandoned once `S.fault = 1`. -/
def absorbBytes (c : Word) : List Byte → State → Result
  | [], s => .next s
  | x :: xs, s =>
    match absorbByte c x s with
    | .next s' => if s'.fault then .next s' else absorbBytes c xs s'
    | .fault r => .fault r
    | .refused r => .refused r

/-- R140: `ABSORB n`. -/
def execAbsorb (n : Nat) (s : State) : Result :=
  unlessFaulted s <|
    if s.ready = false then raiseError .notInitialized (encode (.absorb n)) s
    else if Config.absorbMax < n then raiseError .badLength (encode (.absorb n)) s
    else absorbBytes (encode (.absorb n)) (absorbOperand n s) { s with outValid := false }

end Sys2Proof.Machine
end

