-- ==== Sys2Proof/Machine/Output.lean ====
section
/-! DEFINITION. Root finalization and extendable output (44_output.md): `FINALIZE` and `SQUEEZE`. -/

namespace Sys2Proof.Machine

/-- R210: what `FINALIZE` keeps of the root node, everything but its counter (R55). -/
def captureRoot (r : TreeNode) : RootNode where
  cv := r.cv
  m := r.blk
  b := r.b
  d := r.d

/-- R212, R213: root output block `k` as sixteen words; `ROOT` is added here (R163). -/
def outputBlock (r : RootNode) (k : Counter) : Words16 := compress r.cv r.m k r.b (r.d ||| flagRoot)

/-- R210: `FINALIZE`. -/
def execFinalize (s : State) : Result :=
  unlessFaulted s <|
    if s.ready = false then raiseError .notInitialized (encode .finalize) s
    else .next { s with onode := captureRoot (rootNode s), outCtr := 0, outValid := true }

/-- R212: `SQUEEZE`. -/
def execSqueeze (s : State) : Result :=
  unlessFaulted s <|
    if s.ready = false then raiseError .notInitialized (encode .squeeze) s
    else if s.outValid = false then raiseError .noOutput (encode .squeeze) s
    else .next { s with dout := outputBlock s.onode s.outCtr, outCtr := s.outCtr + 1 }

end Sys2Proof.Machine
end

