-- ==== Sys2Proof/Machine/Control.lean ====
section
/-! DEFINITION. Mode initialization and the control commands (43_control.md). -/

namespace Sys2Proof.Machine

/-- R180: `NOP` changes nothing. -/
def execNop (s : State) : Result := unlessFaulted s (.next s)

/-- R181: `RESET`, the only command that runs while `S.fault = 1` (R241). -/
def execReset (s : State) : Result := .next (resetAction s)

/-- R186: `INIT_HASH`. -/
def execInitHash (s : State) : Result := unlessFaulted s (.next (hasherInit iv .plain s))

/-- R188: `INIT_KEYED a`. -/
def execInitKeyed (a : Nat) (s : State) : Result :=
  unlessFaulted s <|
    if a ≠ Config.keyLen then raiseError .invalidKeyLength (encode (.initKeyed a)) s
    else .next (hasherInit (keyOperand s) .keyed s)

/-- R190: `INIT_DERIVE_CONTEXT`. -/
def execInitDeriveContext (s : State) : Result := unlessFaulted s (.next (hasherInit iv .deriveContext s))

/-- R192: the context key, the first eight words of output block 0 of the current hasher's root. -/
def contextKey (s : State) : Cv := cvOf (outputBlock (captureRoot (rootNode s)) 0)

/-- R192: `INIT_DERIVE_MATERIAL`. -/
def execInitDeriveMaterial (s : State) : Result :=
  unlessFaulted s <|
    if s.ready = false then raiseError .notInitialized (encode .initDeriveMaterial) s
    else if s.mode ≠ .deriveContext then raiseError .wrongMode (encode .initDeriveMaterial) s
    else .next (hasherInit (contextKey s) .deriveMaterial s)

/-- R195: `CLEAR_ERR`. -/
def execClearErr (s : State) : Result := unlessFaulted s (.next (clearRecord s))

end Sys2Proof.Machine
end

