-- ==== Sys2Proof/Machine/Dispatch.lean ====
section
/-! DEFINITION. The meaning of every command, one arm each (60_exceptions.md R242 step 3). -/

namespace Sys2Proof.Machine

/-- The effect of a decoded command. -/
def exec (i : Instr) (s : State) : Host.Outcome State Fault Refusal :=
  match i with
  | .nop => Sys2Proof.Machine.execNop s
  | .reset => Sys2Proof.Machine.execReset s
  | .initHash => Sys2Proof.Machine.execInitHash s
  | .initKeyed a => Sys2Proof.Machine.execInitKeyed a s
  | .initDeriveContext => Sys2Proof.Machine.execInitDeriveContext s
  | .initDeriveMaterial => Sys2Proof.Machine.execInitDeriveMaterial s
  | .absorb n => Sys2Proof.Machine.execAbsorb n s
  | .finalize => Sys2Proof.Machine.execFinalize s
  | .squeeze => Sys2Proof.Machine.execSqueeze s
  | .compress => Sys2Proof.Machine.execCompress s
  | .clearErr => Sys2Proof.Machine.execClearErr s

end Sys2Proof.Machine
end

