-- ==== Sys2Proof/Machine/HostPort.lean ====
section
/-! DEFINITION. The host port (20_memory.md): what the block does with one host access or with the hardware reset input, and how a
word written to `CMD` is executed (60_exceptions.md R242). -/

namespace Sys2Proof.Machine

/-- R242 step 2: a word that decodes to `ILLEGAL` raises `ILLEGAL_COMMAND`, and is ignored while `S.fault = 1` (R241). -/
def illegalCommand (c : Word) (s : State) : Result := unlessFaulted s (raiseError .illegalCommand c s)

/-- R34, R242: `execute(c)`. The fault stop of R242 step 1 is part of each command's own meaning and of `illegalCommand`. -/
def executeWord (c : Word) (s : State) : Result :=
  match decode c with
  | .error _ => illegalCommand c s
  | .ok i => exec i s

/-- R62, R63: the register an access addresses, `none` where the access is a bus error whatever the register's class: a width other
than 32 bits, a misaligned offset, or a reserved offset. -/
def accessReg (bits : Nat) (o : Offset) : Option Reg := if bits = Config.accessBits then regAt o else none

/-- The port returns a word to the host; the block's own state does not change (R68). -/
def returnWord (v : Word) (s : State) : State := { s with returned := s.returned ++ [v] }

/-- R62: `MemRead`. A bus error returns no data (R63). -/
def hostRead (bits : Nat) (o : Offset) (s : State) : Result :=
  match accessReg bits o with
  | none => .fault .busError
  | some r =>
    match readReg r s with
    | some v => .next (returnWord v s)
    | none => .fault .busError

/-- R62: `MemWrite`. A write to `CMD` runs a command (R34, R66); a write to an `RW` register stores its value (R68); a write to an
`RO` register is a bus error (R63). -/
def hostWrite (bits : Nat) (o : Offset) (v : Word) (s : State) : Result :=
  match accessReg bits o with
  | none => .fault .busError
  | some r =>
    match accessOf r with
    | .ro => .fault .busError
    | .rw => .next (writeReg r v s)
    | .wo => executeWord v s

/-- One event of the outside world (R16): an access, or the reset input (R260, R261). -/
def serve (e : HostEvent) (s : State) : Result :=
  match e with
  | .read bits o => hostRead bits o s
  | .write bits o v => hostWrite bits o v s
  | .resetInput => .next (resetAction s)

end Sys2Proof.Machine
end

