-- ==== Sys2Proof/Machine/Step.lean ====
section
/-! DEFINITION. One step of the machine. The block has no program counter and fetches nothing (10_state.md R21): a step serves the
next access the host issues, and with none waiting the block is idle (00_scope.md R16, 60_exceptions.md R257). -/

namespace Sys2Proof.Machine

/-- R16, R66, R67: the next host event is served whole; with none waiting nothing changes (DESIGN CHOICE, log entry 3). -/
def step (s : State) : Host.Outcome State Fault Refusal :=
  match s.pending with
  | [] => .next s
  | e :: rest => serve e { s with pending := rest }

/-- `s` with the host about to write the table word `w` to `CMD` (R34, R91), so that the next step runs it (DESIGN CHOICE, log
entry 4). -/
def State.withFetchWord (s : State) (nbits w : Nat) : State :=
  { s with pending := .write 32 0x00C (BitVec.ofNat 32 (w % 2 ^ nbits)) :: s.pending }

end Sys2Proof.Machine
end

