-- ==== Sys2Proof/Safety.lean ====
section
/-! DEFINITION. What every reachable state satisfies (10_state.md R53, R55, R56) and what counts as a safe run of the machine, in the
terms the statements use. -/

namespace Sys2Proof.Machine

/-- The number of set bits of a 64-bit count (R56 item 4, R166). -/
def popcount (x : Counter) : Nat := (List.range 64).countP fun i => x.getLsbD i

/-- The invariants R56 lists, with R53's "Bytes `S.block[S.block_len .. 64]` are always 0". The bounds R56 items 2 and 3 put on
`S.blocks_done` and on the chunk's length are carried by the fields' types as well. -/
structure BlockInv (s : State) : Prop where
  /-- R56 item 1. -/
  ready_iff_mode : s.ready = false ↔ s.mode = .none
  /-- R56 item 2. -/
  blocks_done_le : s.blocksDone.val ≤ 15
  /-- R56 item 2. -/
  block_started : 1 ≤ s.blocksDone.val → 1 ≤ s.blockLen.val
  /-- R56 item 3. -/
  chunk_le : 64 * s.blocksDone.val + s.blockLen.val ≤ 1024
  /-- R56 item 4. -/
  stack_popcount : s.ready = true → s.fault = false → s.stack.length = popcount s.chunkCtr
  /-- R56 item 4, "so `len(S.stack) <= 64`". -/
  stack_le : s.stack.length ≤ 64
  /-- R56 item 5. -/
  no_error_record : s.err = false → s.errcode = .none ∧ s.errCmd = 0
  /-- R56 item 5. -/
  error_recorded : s.err = true → s.errcode ≠ .none
  /-- R53. -/
  block_tail : ∀ i : Fin 64, s.blockLen.val ≤ i.val → s.block[i] = 0

/-- The output is that of the current hasher state (R30): while `S.out_valid = 1`, `S.onode` is the root node of everything absorbed so
far, and there is a hasher. -/
structure OutputCurrent (s : State) : Prop where
  ready : s.outValid = true → s.ready = true
  captured : s.outValid = true → s.onode = captureRoot (rootNode s)

/-- The states a run from reset reaches, whatever the host issues: the host may add accesses at any point (R16, R67). -/
inductive Reachable : State → Prop
  /-- The reset state, with any accesses waiting. -/
  | reset (events : List HostEvent) : Reachable { State.reset with pending := events }
  /-- A step that answers a next state. -/
  | step {s s' : State} : Reachable s → step s = .next s' → Reachable s'
  /-- The host issues more accesses. -/
  | issue {s : State} (events : List HostEvent) : Reachable s → Reachable { s with pending := s.pending ++ events }

/-! ### Input in pieces, and the tree it is hashed to

The statements about whole inputs compare the machine with the tree built at once from the input bytes: "It must reconstruct the same
binary tree a full Merkle build would produce" (R169). `key` and `mode` are the hasher's seed `S.key_cv` and its mode, which no
input changes. -/

/-- A hasher just initialized (R131, R182): "no bytes absorbed". -/
structure FreshHasher (s : State) : Prop where
  ready : s.ready = true
  running : s.fault = false
  stack : s.stack = []
  chunkCv : s.chunkCv = s.keyCv
  block : s.block = Vector.replicate 64 0
  blockLen : s.blockLen = 0
  blocksDone : s.blocksDone = 0
  chunkCtr : s.chunkCtr = 0

/-- One piece of input (R97): the window `DIN` holding `p.2`, then `ABSORB p.1`. -/
def absorbPiece (p : Nat × Words16) (s : State) : Result := exec (.absorb p.1) { s with din := p.2 }

/-- A sequence of pieces, each absorbed by its own `ABSORB`. -/
def absorbPieces : List (Nat × Words16) → State → Result
  | [], s => .next s
  | p :: ps, s =>
    match absorbPiece p s with
    | .next s' => absorbPieces ps s'
    | .fault r => .fault r
    | .refused r => .refused r

/-- The bytes a sequence of pieces holds, taken in order (R97). -/
def pieceBytes (ps : List (Nat × Words16)) : List Byte := ps.flatMap fun p => (bytesLe p.2.toList).take p.1

/-- Chunks of an input: `max(1, ceil(N/1024))` (R277). -/
def chunkCount (bs : List Byte) : Nat := max 1 ((bs.length + 1023) / 1024)

/-- The bytes of chunk `k` of an input. -/
def chunkBytes (bs : List Byte) (k : Nat) : List Byte := (bs.drop (1024 * k)).take 1024

/-- `CHUNK_START` for block 0 of a chunk, else 0 (R133). -/
def startFlagOf (j : Nat) : Word := if j = 0 then flagChunkStart else 0

/-- The running chaining value of chunk `k`, whose bytes are `bs`, after its first `j` blocks (R131, R137). -/
def chainAfter (key : Cv) (mode : Mode) (k : Nat) (bs : List Byte) : Nat → Cv
  | 0 => key
  | j + 1 =>
    cvOf (compress (chainAfter key mode k bs j) (wordsLe ((bs.drop (64 * j)).take 64)) (BitVec.ofNat 64 k) 64
      (mflags mode ||| startFlagOf j))

/-- The index of the last block of a chunk whose bytes are `bs`; the last block is never compressed before the chunk is finalized
(R134). -/
def lastBlock (bs : List Byte) : Nat := (bs.length - 1) / 64

/-- The node of chunk `k`, whose bytes are `bs` (R138, R139). -/
def leafNode (key : Cv) (mode : Mode) (k : Nat) (bs : List Byte) : TreeNode where
  cv := chainAfter key mode k bs (lastBlock bs)
  blk := wordsLe (bs.drop (64 * lastBlock bs))
  t := BitVec.ofNat 64 k
  b := BitVec.ofNat 32 (bs.length - 64 * lastBlock bs)
  d := mflags mode ||| startFlagOf (lastBlock bs) ||| flagChunkEnd

/-- The chunk nodes of an input, left to right. -/
def leafNodes (key : Cv) (mode : Mode) (bs : List Byte) : List TreeNode :=
  (List.range (chunkCount bs)).map fun k => leafNode key mode k (chunkBytes bs k)

/-- The leaves of the left subtree of a tree over `n` chunks, `n >= 2`: the largest power of two below `n` (R169: "each parent's left
subtree is a complete binary tree of `2^k` chunks and its right subtree is the rest"). -/
def leftLeaves (n : Nat) : Nat := 2 ^ Nat.log2 (n - 1)

/-- The root of the tree over a list of leaves, built at once from the top (R162, R169); `fuel` bounds the depth
(DEDUCED, log entry 17). -/
def merkleRoot (key : Cv) (mode : Mode) : Nat → List TreeNode → TreeNode
  | 0, ns => ns.headD (leafNode key mode 0 [])
  | fuel + 1, ns =>
    if ns.length ≤ 1 then ns.headD (leafNode key mode 0 [])
    else
      parentNode key mode (chainingValue (merkleRoot key mode fuel (ns.take (leftLeaves ns.length))))
        (chainingValue (merkleRoot key mode fuel (ns.drop (leftLeaves ns.length))))

/-- The chaining value of the complete tree over the first `2^k` of a list of chunk chaining values. -/
def completeTree (key : Cv) (mode : Mode) : Nat → List Cv → Cv
  | 0, cs => cs.headD (Vector.replicate 8 0)
  | k + 1, cs =>
    chainingValue (parentNode key mode (completeTree key mode k (cs.take (2 ^ k)))
      (completeTree key mode k (cs.drop (2 ^ k))))

/-- The stack R166 describes for the chunk chaining values `cs`: an entry for each set bit of their number among bits `k - 1` to 0,
the most significant first, over that bit's chunks. -/
def subtreeStack (key : Cv) (mode : Mode) : Nat → List Cv → List Cv
  | 0, _ => []
  | k + 1, cs =>
    if cs.length.testBit k then completeTree key mode k (cs.take (2 ^ k)) :: subtreeStack key mode k (cs.drop (2 ^ k))
    else subtreeStack key mode k cs

/-- The chunks' chaining values merged one after another (R165), the first of them the `total`-th to complete. -/
def mergeAll : List Cv → Counter → State → Option State
  | [], _, s => some s
  | c :: cs, total, s =>
    match merge c total s with
    | some s' => mergeAll cs (total + 1) s'
    | none => none

/-- `SQUEEZE` issued `j` times. -/
def squeezeTimes : Nat → State → Result
  | 0, s => .next s
  | j + 1, s =>
    match squeezeTimes j s with
    | .next s' => exec .squeeze s'
    | .fault r => .fault r
    | .refused r => .refused r

/-! ### Safe outcomes -/

/-- A safe outcome: a next state, or the host program's own bus error (R246). -/
def Safe : Result → Prop
  | .next _ => True
  | .fault .busError => True
  | .fault .stackUnderflow => False
  | .refused _ => False

end Sys2Proof.Machine
end

