-- ==== Sys2Proof/Certificates/Slice0/Obligations.lean ====
section
/-! DEFINITION. The statements about the model, for the provers. Each docstring names the rule of the spec it formalises. Where a
statement gives an instruction's next state as `{ s with … }`, every field not named is unchanged: that is its frame. -/

open Sys2Proof Sys2Proof.Machine

/-! ### Encoding and decoding (30_encoding.md) -/

/-- R86, V-DEC: words written out from the encodings, each with the command it decodes to. -/
def Obligations.EncodedWordsDecode : Prop :=
  decode 0x00000000 = .ok .nop ∧ decode 0x00000001 = .ok .reset ∧ decode 0x00000002 = .ok .initHash ∧
  decode 0x00002003 = .ok (.initKeyed 32) ∧ decode 0x0000FF03 = .ok (.initKeyed 255) ∧
  decode 0x00000004 = .ok .initDeriveContext ∧ decode 0x00000005 = .ok .initDeriveMaterial ∧
  decode 0x00004006 = .ok (.absorb 64) ∧ decode 0x0000FF06 = .ok (.absorb 255) ∧
  decode 0x00000007 = .ok .finalize ∧ decode 0x00000008 = .ok .squeeze ∧ decode 0x00000009 = .ok .compress ∧
  decode 0x0000000A = .ok .clearErr

/-- R84, R86: every well-formed command is the decoding of its own word. -/
def Obligations.DecodeOfEncode : Prop := ∀ i : Instr, i.wf = true → decode (encode i) = .ok i

/-- R84, R99: a word that decodes is the word of the command it decodes to, so no bit of a word is dropped. -/
def Obligations.EncodeOfDecode : Prop := ∀ (c : Word) (i : Instr), decode c = .ok i → i.wf = true ∧ encode i = c

/-- R84: the decoding pseudocode, with the three fields of R80 written out. -/
def Obligations.DecodeFollowsThePseudocode : Prop :=
  ∀ c : Word,
    (c.extractLsb' 16 16 ≠ 0 → ∃ e, decode c = .error e) ∧
    (c.extractLsb' 16 16 = 0 → 0x0A < (c.extractLsb' 0 8).toNat → ∃ e, decode c = .error e) ∧
    (c.extractLsb' 16 16 = 0 → (c.extractLsb' 0 8).toNat ≤ 0x0A → (c.extractLsb' 8 8).toNat ≠ 0 →
      (c.extractLsb' 0 8).toNat ≠ 0x03 → (c.extractLsb' 0 8).toNat ≠ 0x06 → ∃ e, decode c = .error e) ∧
    (c.extractLsb' 16 16 = 0 → (c.extractLsb' 0 8).toNat ≤ 0x0A →
      ((c.extractLsb' 8 8).toNat = 0 ∨ (c.extractLsb' 0 8).toNat = 0x03 ∨ (c.extractLsb' 0 8).toNat = 0x06) →
      ∃ i, decode c = .ok i ∧ opcodeOf i = (c.extractLsb' 0 8).toNat ∧ argOf i = (c.extractLsb' 8 8).toNat)

/-- R86: a word agrees with a command's match under its mask exactly where it decodes to that command, with some argument. -/
def Obligations.MatchAndMaskTable : Prop :=
  ∀ (c : Word) (i : Instr), c &&& maskOf i = matchOf i ↔ ∃ j, decode c = .ok j ∧ opcodeOf j = opcodeOf i

/-- R88: the illegal words are exactly those listed, and one that is executed records `ILLEGAL_COMMAND` and does nothing else, or
nothing at all while `S.fault = 1`. -/
def Obligations.IllegalWordsOnlyRecordAnError : Prop :=
  ∀ c : Word,
    ((∃ e, decode c = .error e) ↔
      c.extractLsb' 16 16 ≠ 0 ∨ 0x0B ≤ (c.extractLsb' 0 8).toNat ∨
      ((c.extractLsb' 0 8).toNat ∈ [0x00, 0x01, 0x02, 0x04, 0x05, 0x07, 0x08, 0x09, 0x0A] ∧ c.extractLsb' 8 8 ≠ 0)) ∧
    ∀ (s : State) (e : Illegal), decode c = .error e →
      (s.fault = true → executeWord c s = .next s) ∧
      (s.fault = false → s.err = true → executeWord c s = .next s) ∧
      (s.fault = false → s.err = false →
        executeWord c s = .next { s with err := true, errcode := .illegalCommand, errCmd := c })

/-! ### The step and the host port (20_memory.md, 10_state.md section 2) -/

/-- R34, R67: with a write of a word that decodes waiting at `CMD`, the step is the command's effect, with that access removed from
those waiting (log entry 1); with nothing waiting a step changes nothing (log entry 3). -/
def Obligations.StepRunsTheDecodedCommand : Prop :=
  (∀ (s : State) (rest : List HostEvent) (c : Word) (i : Instr),
    s.pending = .write 32 0x00C c :: rest → decode c = .ok i → step s = exec i { s with pending := rest }) ∧
  (∀ (s : State) (i : Instr), i.wf = true → step (s.withFetchWord 32 (encode i).toNat) = exec i s) ∧
  (∀ s : State, s.pending = [] → step s = .next s)

/-- R68: a read changes nothing but the data returned to the host, a write to an `RW` register reaches no other register, and a write to
`CMD` runs the command. -/
def Obligations.AccessSideEffects : Prop :=
  (∀ (bits : Nat) (o : Offset) (s t : State), hostRead bits o s = .next t → t = { s with returned := t.returned }) ∧
  (∀ (r r' : Reg) (v : Word) (s : State), accessOf r = .rw → r' ≠ r →
    ∃ t, hostWrite 32 (regOffset r) v s = .next t ∧ readReg r' t = readReg r' s) ∧
  (∀ (c : Word) (s : State), hostWrite 32 0x00C c s = executeWord c s)

/-- R23, R45: each access class. A read of a readable register returns its value; an `RW` register then reads as written (`B_LEN` its
low eight bits), and the write changes no hidden state; an `RO` register cannot be written; the `WO` register can be written and not
read. That data is returned to the host by appending it to `returned` is the model's choice (log entry 2). -/
def Obligations.AccessClasses : Prop :=
  (∀ (r : Reg) (s : State), accessOf r ≠ .wo →
    ∃ v, readReg r s = some v ∧ hostRead 32 (regOffset r) s = .next { s with returned := s.returned ++ [v] }) ∧
  (∀ (r : Reg) (s : State), accessOf r = .wo → hostRead 32 (regOffset r) s = .fault .busError ∧
    ∀ v : Word, BlockInv s → ∃ t, hostWrite 32 (regOffset r) v s = .next t) ∧
  (∀ (r : Reg) (v : Word) (s : State), accessOf r = .ro → hostWrite 32 (regOffset r) v s = .fault .busError) ∧
  (∀ (r : Reg) (v : Word) (s : State), accessOf r = .rw →
    ∃ t, hostWrite 32 (regOffset r) v s = .next t ∧
      readReg r t = some (if r = .bLen then v &&& 0xFF else v) ∧
      t = { s with
        key := t.key, din := t.din, cvIn := t.cvIn, tLo := t.tLo, tHi := t.tHi, bLen := t.bLen, dFlags := t.dFlags,
        mIn := t.mIn })

/-- R63, R64: an access is a bus error exactly where it is misaligned, not 32 bits wide, at a reserved offset, a write to an `RO`
register or a read of `CMD`. -/
def Obligations.BusErrorsExactly : Prop :=
  ∀ (bits : Nat) (o : Offset) (v : Word) (s : State),
    let n := o.toNat
    let reserved := (0x030 ≤ n ∧ n ≤ 0x03F) ∨ (0x060 ≤ n ∧ n ≤ 0x07F) ∨ (0x130 ≤ n ∧ n ≤ 0x13F) ∨ 0x1C0 ≤ n
    let readOnly := n < 0x00C ∨ (0x010 ≤ n ∧ n < 0x030) ∨ (0x0C0 ≤ n ∧ n < 0x100) ∨ (0x180 ≤ n ∧ n < 0x1C0)
    (hostRead bits o s = .fault .busError ↔ n % 4 ≠ 0 ∨ bits ≠ 32 ∨ reserved ∨ n = 0x00C) ∧
    (hostWrite bits o v s = .fault .busError ↔ n % 4 ≠ 0 ∨ bits ≠ 32 ∨ reserved ∨ readOnly)

/-- R22, R61: every register sits at the offset of R22's table and at no other, with the access class of the table; the registers that
hold operands and results read as those; and the window's host addresses are its offsets from a `BASE` that is 4096-byte aligned. -/
def Obligations.RegisterMapIsExact : Prop :=
  (∀ r : Reg, (regOffset r).toNat =
    match r with
    | .id => 0x000
    | .config => 0x004
    | .status => 0x008
    | .cmd => 0x00C
    | .chunkCtrLo => 0x010
    | .chunkCtrHi => 0x014
    | .chunkLen => 0x018
    | .stackDepth => 0x01C
    | .outCtrLo => 0x020
    | .outCtrHi => 0x024
    | .modeFlags => 0x028
    | .errCmd => 0x02C
    | .key k => 0x040 + 4 * k.val
    | .din k => 0x080 + 4 * k.val
    | .dout k => 0x0C0 + 4 * k.val
    | .cvIn k => 0x100 + 4 * k.val
    | .tLo => 0x120
    | .tHi => 0x124
    | .bLen => 0x128
    | .dFlags => 0x12C
    | .mIn k => 0x140 + 4 * k.val
    | .cmpOut k => 0x180 + 4 * k.val) ∧
  (∀ r : Reg, (accessOf r = .wo ↔ r = .cmd) ∧
    (accessOf r = .rw ↔ (∃ k, r = .key k) ∨ (∃ k, r = .din k) ∨ (∃ k, r = .cvIn k) ∨ r = .tLo ∨ r = .tHi ∨ r = .bLen ∨
      r = .dFlags ∨ ∃ k, r = .mIn k)) ∧
  (∀ s : State,
    (∀ k : Fin 8, readReg (.key k) s = some s.key[k] ∧ readReg (.cvIn k) s = some s.cvIn[k]) ∧
    (∀ k : Fin 16, readReg (.din k) s = some s.din[k] ∧ readReg (.dout k) s = some s.dout[k] ∧
      readReg (.mIn k) s = some s.mIn[k] ∧ readReg (.cmpOut k) s = some s.cmpOut[k]) ∧
    readReg .tLo s = some s.tLo ∧ readReg .tHi s = some s.tHi ∧ readReg .bLen s = some (s.bLen.setWidth 32) ∧
    readReg .dFlags s = some s.dFlags) ∧
  (∀ r : Reg, regAt (regOffset r) = some r) ∧
  (∀ (o : Offset) (r : Reg), regAt o = some r → regOffset r = o) ∧
  Config.base % 4096 = 0 ∧
  (∀ o : Offset, Config.windowOffset (Config.hostAddress o) = some o) ∧
  (∀ (a : Nat) (o : Offset), Config.windowOffset a = some o → Config.hostAddress o = a)

/-- R58, R260: the reset action, by the reset input or by the `RESET` command, puts every piece of the block's state to the value R58
lists; that what the host has waiting and has been given stays is the model's choice (log entries 1 and 2). -/
def Obligations.ResetActionGivesTheResetState : Prop :=
  ∀ s : State,
    let zero : State :=
      { ready := false, err := false, fault := false, outValid := false, errcode := .none, errCmd := 0, mode := .none,
        keyCv := #v[0, 0, 0, 0, 0, 0, 0, 0], chunkCv := #v[0, 0, 0, 0, 0, 0, 0, 0], block := Vector.replicate 64 0,
        blockLen := 0, blocksDone := 0, chunkCtr := 0, stack := [],
        onode := { cv := Vector.replicate 8 0, m := Vector.replicate 16 0, b := 0, d := 0 }, outCtr := 0,
        key := Vector.replicate 8 0, din := Vector.replicate 16 0, dout := Vector.replicate 16 0,
        cvIn := Vector.replicate 8 0, tLo := 0, tHi := 0, bLen := 0, dFlags := 0, mIn := Vector.replicate 16 0,
        cmpOut := Vector.replicate 16 0, pending := s.pending, returned := s.returned }
    serve .resetInput s = .next zero ∧ exec .reset s = .next zero ∧
      { State.reset with pending := s.pending, returned := s.returned } = zero

/-- R22 (the reset column), R59: after reset every readable register reads as zero but the two constants. -/
def Obligations.ResetReads : Prop :=
  readReg .id State.reset = some 0x42330007 ∧ readReg .config State.reset = some 0x00000740 ∧
  ∀ r : Reg, r ≠ .id → r ≠ .config → r ≠ .cmd → readReg r State.reset = some 0

/-- R24, R25: the constant registers in every state. -/
def Obligations.ConstantRegisters : Prop :=
  ∀ s : State,
    readReg .id s = some 0x42330007 ∧ readReg .config s = some 0x00000740 ∧
    (0x00000740 : Word).extractLsb' 0 8 = 64 ∧ (0x00000740 : Word).extractLsb' 8 4 = 7 ∧
    (0x00000740 : Word).extractLsb' 12 20 = 0 ∧
    ∀ v : Word, hostWrite 32 0x000 v s = .fault .busError ∧ hostWrite 32 0x004 v s = .fault .busError

/-- R26: the fields of `STATUS`, its reserved bits and those of `CONFIG`, and its reset value; with the values of its `MODE` field (R32)
and of its `ERRCODE` field (R230). -/
def Obligations.StatusLayout : Prop :=
  (modeBits .none = 0 ∧ modeBits .plain = 1 ∧ modeBits .keyed = 2 ∧ modeBits .deriveContext = 3 ∧
    modeBits .deriveMaterial = 4) ∧
  (errBits .none = 0 ∧ errBits .invalidKeyLength = 1 ∧ errBits .illegalCommand = 2 ∧ errBits .notInitialized = 3 ∧
    errBits .badLength = 4 ∧ errBits .noOutput = 5 ∧ errBits .counterOverflow = 6 ∧ errBits .wrongMode = 7) ∧
  readReg .status State.reset = some 0 ∧
  (∀ s : State, ∃ w : Word, readReg .config s = some w ∧ w.extractLsb' 12 20 = 0) ∧
  ∀ s : State, ∃ w : Word, readReg .status s = some w ∧
    w.getLsbD 0 = s.ready ∧ w.getLsbD 1 = s.err ∧ w.getLsbD 2 = s.fault ∧ w.getLsbD 3 = s.outValid ∧
    w.extractLsb' 4 4 = 0 ∧ w.extractLsb' 8 4 = errBits s.errcode ∧ w.extractLsb' 12 4 = 0 ∧
    w.extractLsb' 16 3 = modeBits s.mode ∧ w.extractLsb' 19 13 = 0

/-- R33, R35 to R39: what the read-only views of the hidden state read as. -/
def Obligations.ProgressViews : Prop :=
  ∀ s : State, BlockInv s →
    (∃ lo hi : Word, readReg .chunkCtrLo s = some lo ∧ readReg .chunkCtrHi s = some hi ∧ hi ++ lo = s.chunkCtr) ∧
    (∃ lo hi : Word, readReg .outCtrLo s = some lo ∧ readReg .outCtrHi s = some hi ∧ hi ++ lo = s.outCtr) ∧
    (∃ w : Word, readReg .chunkLen s = some w ∧ w.toNat = 64 * s.blocksDone.val + s.blockLen.val ∧ w.toNat ≤ 1024) ∧
    (∃ w : Word, readReg .stackDepth s = some w ∧ w.toNat = s.stack.length ∧ w.toNat ≤ 64) ∧
    (∃ w : Word, readReg .modeFlags s = some w ∧ w = mflags s.mode ∧ w ∈ [0x00, 0x10, 0x20, 0x40]) ∧
    readReg .errCmd s = some s.errCmd

/-! ### Errors and the fault stop (60_exceptions.md) -/

/-- R241: the fault stop. Only the exact word `0x00000001` acts, register accesses work as always, and only the reset action clears
`S.fault`. That reset keeps `pending` and `returned`, and that a read appends to `returned`, is the model's choice (log entries 1 and
2). -/
def Obligations.FaultStop : Prop :=
  ∀ s : State, s.fault = true →
    executeWord 0x00000001 s = .next { State.reset with pending := s.pending, returned := s.returned } ∧
    (∀ c : Word, c ≠ 0x00000001 → executeWord c s = .next s) ∧
    (∀ (r : Reg) (v : Word), readReg r s = some v →
      hostRead 32 (regOffset r) s = .next { s with returned := s.returned ++ [v] }) ∧
    (∀ (r : Reg) (v : Word), accessOf r = .rw → hostWrite 32 (regOffset r) v s = .next (writeReg r v s)) ∧
    (∀ (e : HostEvent) (t : State), serve e s = .next t → t.fault = false →
      t = { State.reset with pending := s.pending, returned := s.returned })

/-- R233 to R237, R242: which check comes first, and what a failed one records. -/
def Obligations.CheckOrder : Prop :=
  ∀ s : State, s.fault = false → s.err = false →
    (s.ready = false → ∀ n, exec (.absorb n) s =
      .next { s with err := true, errcode := .notInitialized, errCmd := encode (.absorb n) }) ∧
    (s.ready = true → ∀ n, 64 < n → exec (.absorb n) s =
      .next { s with err := true, errcode := .badLength, errCmd := encode (.absorb n) }) ∧
    (s.ready = false → exec .finalize s =
      .next { s with err := true, errcode := .notInitialized, errCmd := 0x00000007 }) ∧
    (s.ready = false → exec .squeeze s =
      .next { s with err := true, errcode := .notInitialized, errCmd := 0x00000008 }) ∧
    (s.ready = true → s.outValid = false → exec .squeeze s =
      .next { s with err := true, errcode := .noOutput, errCmd := 0x00000008 }) ∧
    (s.ready = false → exec .initDeriveMaterial s =
      .next { s with err := true, errcode := .notInitialized, errCmd := 0x00000005 }) ∧
    (s.ready = true → s.mode ≠ .deriveContext → exec .initDeriveMaterial s =
      .next { s with err := true, errcode := .wrongMode, errCmd := 0x00000005 }) ∧
    (∀ a, a ≠ 32 → exec (.initKeyed a) s =
      .next { s with err := true, errcode := .invalidKeyLength, errCmd := encode (.initKeyed a) })

/-- R240, R245: while an error is recorded no command but `CLEAR_ERR` and `RESET` changes the record, and an illegal word does not. -/
def Obligations.FirstErrorIsKept : Prop :=
  ∀ (c : Word) (s t : State), s.err = true → executeWord c s = .next t → c ≠ encode .clearErr → c ≠ encode .reset →
    t.err = true ∧ t.errcode = s.errcode ∧ t.errCmd = s.errCmd

/-- R239: which command can raise which code, and that it records its own word (R230). -/
def Obligations.ErrorsOfEachCommand : Prop :=
  ∀ (i : Instr) (s t : State), s.fault = false → s.err = false → exec i s = .next t → t.err = true →
    t.errCmd = encode i ∧
    match i with
    | .nop => False
    | .reset => False
    | .initHash => False
    | .initDeriveContext => False
    | .compress => False
    | .clearErr => False
    | .initKeyed a => a ≠ 32 ∧ t.errcode = .invalidKeyLength
    | .initDeriveMaterial =>
      (s.ready = false ∧ t.errcode = .notInitialized) ∨
      (s.ready = true ∧ s.mode ≠ .deriveContext ∧ t.errcode = .wrongMode)
    | .absorb n =>
      (s.ready = false ∧ t.errcode = .notInitialized) ∨ (s.ready = true ∧ 64 < n ∧ t.errcode = .badLength) ∨
      (s.ready = true ∧ n ≤ 64 ∧ t.errcode = .counterOverflow ∧ t.fault = true)
    | .finalize => s.ready = false ∧ t.errcode = .notInitialized
    | .squeeze =>
      (s.ready = false ∧ t.errcode = .notInitialized) ∨
      (s.ready = true ∧ s.outValid = false ∧ t.errcode = .noOutput)

/-- R231: an error is raised by a command and by no other event; it has no effect but its record, and the fault is the only error that
does more. -/
def Obligations.ErrorHasNoOtherEffect : Prop :=
  (∀ (e : HostEvent) (s t : State), serve e s = .next t → s.err = false → t.err = true → ∃ c, e = .write 32 0x00C c) ∧
  ∀ (c : Word) (s t : State), s.fault = false → s.err = false → executeWord c s = .next t → t.err = true →
    (t.errcode ≠ .counterOverflow →
      t = { s with err := true, errcode := t.errcode, errCmd := c }) ∧
    (t.errcode = .counterOverflow ↔ t.fault = true)

/-- R27 to R29: what sets and what clears the sticky status bits, whatever the host does. Every error of R230 sets `ERR`, and nothing
else does. That reset keeps the accesses that wait and the data returned is the model's choice (log entries 1 and 2). -/
def Obligations.StickyStatusBits : Prop :=
  (∀ (c : Word) (s t : State), s.fault = false → serve (.write 32 0x00C c) s = .next t →
    let failed : Prop :=
      (∃ e, decode c = .error e) ∨
      (∃ a, decode c = .ok (.initKeyed a) ∧ a ≠ 32) ∨
      (∃ n, decode c = .ok (.absorb n) ∧ (s.ready = false ∨ 64 < n ∨ t.fault = true)) ∨
      (decode c = .ok .finalize ∧ s.ready = false) ∨
      (decode c = .ok .squeeze ∧ (s.ready = false ∨ s.outValid = false)) ∨
      (decode c = .ok .initDeriveMaterial ∧ (s.ready = false ∨ s.mode ≠ .deriveContext))
    (failed → t.err = true) ∧ (s.err = false → t.err = true → failed)) ∧
  (∀ (n : Nat) (s t : State), s.fault = false → s.ready = true → s.chunkCtr = 0xFFFFFFFFFFFFFFFF → chunkLen s = 1024 →
    1 ≤ n → n ≤ 64 → serve (.write 32 0x00C (encode (.absorb n))) s = .next t → t.fault = true) ∧
  (∀ (i : Instr) (s t : State), s.fault = false → i = .initHash ∨ i = .initKeyed 32 ∨ i = .initDeriveContext →
    serve (.write 32 0x00C (encode i)) s = .next t → t.ready = true) ∧
  ∀ (e : HostEvent) (s t : State), serve e s = .next t →
    (s.ready = true → t.ready = false → t = { State.reset with pending := s.pending, returned := s.returned }) ∧
    (s.ready = false → t.ready = true →
      e = .write 32 0x00C 0x00000002 ∨ e = .write 32 0x00C 0x00002003 ∨ e = .write 32 0x00C 0x00000004) ∧
    (s.err = false → t.err = true → s.fault = false ∧ ∃ c, e = .write 32 0x00C c) ∧
    (s.err = true → t.err = false →
      t = { State.reset with pending := s.pending, returned := s.returned } ∨
      (e = .write 32 0x00C 0x0000000A ∧ t = { s with err := false, errcode := .none, errCmd := 0 })) ∧
    (s.fault = true → t.fault = false → t = { State.reset with pending := s.pending, returned := s.returned }) ∧
    (s.fault = false → t.fault = true → t.chunkCtr = 0xFFFFFFFFFFFFFFFF ∧ chunkLen t = 1024 ∧
      ∃ n, 1 ≤ n ∧ n ≤ 64 ∧ e = .write 32 0x00C (encode (.absorb n)))

/-! ### Which command touches what -/

/-- R72: no command but `RESET` writes an operand register. -/
def Obligations.CommandsKeepOperandRegisters : Prop :=
  ∀ (c : Word) (s t : State), c ≠ encode .reset → executeWord c s = .next t →
    t.key = s.key ∧ t.din = s.din ∧ t.cvIn = s.cvIn ∧ t.tLo = s.tLo ∧ t.tHi = s.tHi ∧ t.bLen = s.bLen ∧
    t.dFlags = s.dFlags ∧ t.mIn = s.mIn ∧ t.pending = s.pending ∧ t.returned = s.returned

/-- R42, R48, R270: `DOUT` is written only by `SQUEEZE`, and `CMP_OUT` only by `COMPRESS`, and both by reset. -/
def Obligations.OutputRegisterWriters : Prop :=
  ∀ (c : Word) (s t : State), c ≠ encode .reset → executeWord c s = .next t →
    (c ≠ encode .squeeze → t.dout = s.dout) ∧ (c ≠ encode .compress → t.cmpOut = s.cmpOut) ∧
    (t.dout ≠ s.dout → t.outCtr = s.outCtr + 1)

/-- R269: `KEY` is sampled only by `INIT_KEYED`: no other command's effect depends on it, and `INIT_KEYED 32` takes it and discards what
was absorbed. -/
def Obligations.KeySampledOnlyByInitKeyed : Prop :=
  (∀ (i : Instr) (s t : State) (k : Cv), (∀ a, i ≠ .initKeyed a) → i ≠ .reset → exec i s = .next t →
    exec i { s with key := k } = .next { t with key := k }) ∧
  (∀ (s : State) (k : Cv), exec .reset { s with key := k } = exec .reset s) ∧
  (∀ (s : State) (k : Cv), s.fault = false →
    ∃ t, exec (.initKeyed 32) { s with key := k } = .next t ∧ t.keyCv = k ∧ t.chunkCv = k ∧ t.stack = [] ∧
      t.chunkCtr = 0 ∧ chunkLen t = 0)

/-- R272: `CMP_OUT` keeps the last result, and a `COMPRESS` between other commands has no effect on a hash in progress. -/
def Obligations.CompressInterleaves : Prop :=
  (∀ (i : Instr) (s t : State), i ≠ .compress → i ≠ .reset → exec i s = .next t → t.cmpOut = s.cmpOut) ∧
  (∀ (i : Instr) (s s' t : State), i ≠ .compress → i ≠ .reset → exec .compress s = .next s' → exec i s = .next t →
    exec i s' = .next { t with cmpOut := s'.cmpOut })

/-! ### The commands, one statement each -/

/-- R180: `NOP`. -/
def Obligations.NopChangesNothing : Prop :=
  encode .nop = 0x00000000 ∧ (∀ s : State, exec .nop s = .next s) ∧
  ∀ c : Word, c.extractLsb' 0 8 = 0 → c ≠ 0 → ∃ e, decode c = .error e

/-- R181, R263: `RESET`, in every state, faulted or not. That it keeps `pending` and `returned` is the model's choice (log entries 1 and
2). -/
def Obligations.ResetCommand : Prop :=
  encode .reset = 0x00000001 ∧
  (∀ s : State, exec .reset s = .next { State.reset with pending := s.pending, returned := s.returned } ∧
    exec .reset s = serve .resetInput s) ∧
  (∀ s t : State, exec .reset s = .next t → readReg .status t = some 0 ∧ readReg .errCmd t = some 0 ∧
    ∀ r : Reg, accessOf r = .rw → readReg r t = some 0)

/-- R186: `INIT_HASH`, which needs no hasher and discards any there is (R183). -/
def Obligations.InitHashStartsAPlainHasher : Prop :=
  encode .initHash = 0x00000002 ∧
  (∀ s : State, s.fault = true → exec .initHash s = .next s) ∧
  (∀ s : State, s.fault = false → ∃ t : State, exec .initHash s = .next t ∧
    t = { s with
      keyCv := iv, mode := .plain, stack := [], chunkCv := iv, block := Vector.replicate 64 0, blockLen := 0,
      blocksDone := 0, chunkCtr := 0, outValid := false, outCtr := 0, ready := true } ∧
    readReg .chunkCtrLo t = some 0 ∧ readReg .chunkCtrHi t = some 0 ∧ readReg .chunkLen t = some 0 ∧
    readReg .stackDepth t = some 0 ∧ readReg .outCtrLo t = some 0 ∧ readReg .outCtrHi t = some 0 ∧
    readReg .modeFlags t = some 0) ∧
  (∀ t : State, exec .initHash State.reset = .next t → readReg .status t = some 0x00010001)

/-- R188: `INIT_KEYED`, with its rejected lengths, a later write to `KEY` that leaves the running hasher alone, and its worked example
(the first output block of the empty keyed hash). -/
def Obligations.InitKeyedStartsAKeyedHasher : Prop :=
  encode (.initKeyed 32) = 0x00002003 ∧
  (∀ (a : Nat) (s : State), s.fault = true → exec (.initKeyed a) s = .next s) ∧
  (∀ (a : Nat) (s : State), s.fault = false → a ≠ 32 → s.err = true → exec (.initKeyed a) s = .next s) ∧
  (∀ (a : Nat) (s : State), s.fault = false → a ≠ 32 → s.err = false → exec (.initKeyed a) s =
    .next { s with err := true, errcode := .invalidKeyLength, errCmd := encode (.initKeyed a) }) ∧
  (∀ s : State, s.fault = false → ∃ t : State, exec (.initKeyed 32) s = .next t ∧
    t = { s with
      keyCv := s.key, mode := .keyed, stack := [], chunkCv := s.key, block := Vector.replicate 64 0, blockLen := 0,
      blocksDone := 0, chunkCtr := 0, outValid := false, outCtr := 0, ready := true } ∧
    readReg .modeFlags t = some 0x10) ∧
  (∀ (k : Fin 8) (v : Word) (s : State), ∃ t : State,
    hostWrite 32 (regOffset (.key k)) v s = .next t ∧ t = { s with key := s.key.set k v }) ∧
  (∀ t : State,
    exec (.initKeyed 32) { State.reset with key := #v[0x74616877, 0x68742073, 0x6c452065, 0x68736976, 0x726f7720,
      0x6f662064, 0x72662072, 0x646e6569] } = .next t →
    cvOf (outputBlock (captureRoot (rootNode t)) 0) = #v[0x56b7b292, 0x763ced04, 0x626f9d1f, 0x928a2c39, 0xa30ead27,
      0xe77395f0, 0x8a49f183, 0x260dd64e])

/-- R190: `INIT_DERIVE_CONTEXT`; `FINALIZE` and `SQUEEZE` work in its mode as in any other. -/
def Obligations.InitDeriveContextStartsTheContextPhase : Prop :=
  encode .initDeriveContext = 0x00000004 ∧
  (∀ s : State, s.fault = true → exec .initDeriveContext s = .next s) ∧
  (∀ s : State, s.fault = false → ∃ t : State, exec .initDeriveContext s = .next t ∧
    t = { s with
      keyCv := iv, mode := .deriveContext, stack := [], chunkCv := iv, block := Vector.replicate 64 0, blockLen := 0,
      blocksDone := 0, chunkCtr := 0, outValid := false, outCtr := 0, ready := true } ∧
    readReg .modeFlags t = some 0x20 ∧
    ∃ u v : State, exec .finalize t = .next u ∧ exec .squeeze u = .next v ∧
      v.dout = outputBlock (captureRoot (rootNode t)) 0) ∧
  (∀ t : State, exec .initDeriveContext State.reset = .next t → readReg .status t = some 0x00030001)

/-- R192: `INIT_DERIVE_MATERIAL`: its two checks, and the seed it takes from output block 0 of the root of the context. It reads none of
`S.onode`, `S.out_ctr` and `DOUT`. Last, its worked example: the key derivation of the source's literal digest. -/
def Obligations.InitDeriveMaterialSeedsTheMaterialPhase : Prop :=
  encode .initDeriveMaterial = 0x00000005 ∧
  (∀ s : State, s.fault = true → exec .initDeriveMaterial s = .next s) ∧
  (∀ s : State, s.fault = false → s.ready = false ∨ s.mode ≠ .deriveContext → s.err = true →
    exec .initDeriveMaterial s = .next s) ∧
  (∀ s : State, s.fault = false → s.ready = false → s.err = false →
    exec .initDeriveMaterial s = .next { s with err := true, errcode := .notInitialized, errCmd := 0x00000005 }) ∧
  (∀ s : State, s.fault = false → s.ready = true → s.mode ≠ .deriveContext → s.err = false →
    exec .initDeriveMaterial s = .next { s with err := true, errcode := .wrongMode, errCmd := 0x00000005 }) ∧
  (∀ s : State, s.fault = false → s.ready = true → s.mode = .deriveContext → ∃ (seed : Cv) (t : State),
    seed = cvOf (compress (rootNode s).cv (rootNode s).blk 0 (rootNode s).b ((rootNode s).d ||| flagRoot)) ∧
    exec .initDeriveMaterial s = .next t ∧
    t = { s with
      keyCv := seed, mode := .deriveMaterial, stack := [], chunkCv := seed, block := Vector.replicate 64 0, blockLen := 0,
      blocksDone := 0, chunkCtr := 0, outValid := false, outCtr := 0, ready := true } ∧
    readReg .modeFlags t = some 0x40 ∧ readReg .chunkCtrLo t = some 0 ∧ readReg .chunkCtrHi t = some 0 ∧
    readReg .chunkLen t = some 0 ∧ readReg .stackDepth t = some 0 ∧ readReg .outCtrLo t = some 0 ∧
    readReg .outCtrHi t = some 0) ∧
  (∀ (s t : State) (n : RootNode) (k : Counter) (d : Words16), exec .initDeriveMaterial s = .next t →
    ∃ t', exec .initDeriveMaterial { s with onode := n, outCtr := k, dout := d } = .next t' ∧ t'.keyCv = t.keyCv) ∧
  (∀ s1 s2 s3 s4 s5 s6 : State, exec .initDeriveContext State.reset = .next s1 →
    exec (.absorb 26) { s1 with din := #v[0x776f656d, 0x776f656d, 0x79726576, 0x75636573, 0x656d6572, 0x656d776f,
      0x0000776f, 0, 0, 0, 0, 0, 0, 0, 0, 0] } = .next s2 →
    exec .initDeriveMaterial s2 = .next s3 →
    exec (.absorb 16) { s3 with din := #v[0x73696854, 0x20736920, 0x74732061, 0x676e6972, 0, 0, 0, 0, 0, 0, 0, 0, 0,
      0, 0, 0] } = .next s4 →
    exec .finalize s4 = .next s5 → exec .squeeze s5 = .next s6 →
    cvOf s6.dout = #v[0xe5e78d34, 0x2104f8f8, 0x0d129869, 0xd2c6051d, 0xbd50d233, 0xdb2002f4, 0xc19523f0, 0xf7739af8])

/-- R195: `CLEAR_ERR`. -/
def Obligations.ClearErrClearsTheRecord : Prop :=
  encode .clearErr = 0x0000000A ∧
  (∀ s : State, s.fault = true → exec .clearErr s = .next s) ∧
  (∀ s : State, s.fault = false → ∃ t : State, exec .clearErr s = .next t ∧
    t = { s with err := false, errcode := .none, errCmd := 0 } ∧
    (BlockInv s → s.err = false → t = s))

/-- R210: `FINALIZE` captures the root, restarts the output, and changes no hasher state, so that repeating it gives the same node. -/
def Obligations.FinalizeCapturesTheRoot : Prop :=
  encode .finalize = 0x00000007 ∧
  (∀ s : State, s.fault = true → exec .finalize s = .next s) ∧
  (∀ s : State, s.fault = false → s.ready = false → s.err = true → exec .finalize s = .next s) ∧
  (∀ s : State, s.fault = false → s.ready = false → s.err = false →
    exec .finalize s = .next { s with err := true, errcode := .notInitialized, errCmd := 0x00000007 }) ∧
  (∀ s : State, s.fault = false → s.ready = true → ∃ t : State, exec .finalize s = .next t ∧
    t = { s with
      onode := { cv := (rootNode s).cv, m := (rootNode s).blk, b := (rootNode s).b, d := (rootNode s).d },
      outCtr := 0, outValid := true } ∧
    exec .finalize t = .next t) ∧
  (∀ s t : State, exec .initHash State.reset = .next s → exec .finalize s = .next t →
    t.onode = { cv := iv, m := Vector.replicate 16 0, b := 0, d := 0x03 } ∧ readReg .status t = some 0x00010009)

/-- R212: `SQUEEZE` gives output block `S.out_ctr` and advances the counter, which wraps at `2^64`; the root node's own counter, which
the block index replaces, is 0. Last, its worked example, the input "This is a string". -/
def Obligations.SqueezeGivesTheNextBlock : Prop :=
  encode .squeeze = 0x00000008 ∧
  (∀ s : State, s.fault = true → exec .squeeze s = .next s) ∧
  (∀ s : State, s.fault = false → s.ready = false ∨ s.outValid = false → s.err = true → exec .squeeze s = .next s) ∧
  (∀ s : State, s.fault = false → s.ready = false → s.err = false →
    exec .squeeze s = .next { s with err := true, errcode := .notInitialized, errCmd := 0x00000008 }) ∧
  (∀ s : State, s.fault = false → s.ready = true → s.outValid = false → s.err = false →
    exec .squeeze s = .next { s with err := true, errcode := .noOutput, errCmd := 0x00000008 }) ∧
  (∀ s : State, s.fault = false → s.ready = true → s.outValid = true → exec .squeeze s = .next { s with
    dout := compress s.onode.cv s.onode.m s.outCtr s.onode.b (s.onode.d ||| flagRoot), outCtr := s.outCtr + 1 }) ∧
  (0xFFFFFFFFFFFFFFFF : Counter) + 1 = 0 ∧
  (∀ s : State, BlockInv s → s.ready = true → s.fault = false → (rootNode s).t = 0) ∧
  (∀ s1 s2 s3 s4 : State, exec .initHash State.reset = .next s1 →
    exec (.absorb 16) { s1 with din := #v[0x73696854, 0x20736920, 0x74732061, 0x676e6972, 0, 0, 0, 0, 0, 0, 0, 0, 0,
      0, 0, 0] } = .next s2 →
    exec .finalize s2 = .next s3 → exec .squeeze s3 = .next s4 → readReg (.dout 0) s4 = some 0x9f748b71)

/-- R115: `COMPRESS` runs the compression unit on the operand registers, which stand in the initial state as R111 lays it out, and needs
no hasher. -/
def Obligations.CompressCommand : Prop :=
  encode .compress = 0x00000009 ∧
  (∀ s : State, s.fault = true → exec .compress s = .next s) ∧
  (∀ s : State, s.fault = false → exec .compress s = .next { s with
    cmpOut := compress s.cvIn s.mIn (s.tHi ++ s.tLo) (s.bLen.setWidth 32) s.dFlags }) ∧
  (∀ s t : State, s.fault = false → exec .compress s = .next t → exec .compress t = .next t) ∧
  (∀ (cv : Cv) (t : Counter) (b d : Word),
    (∀ k : Fin 8, (initState cv t b d)[k.val] = cv[k]) ∧ (∀ k : Fin 4, (initState cv t b d)[k.val + 8] = iv[k.val]) ∧
    (initState cv t b d)[12] = t.extractLsb' 0 32 ∧ (initState cv t b d)[13] = t.extractLsb' 32 32 ∧
    (initState cv t b d)[14] = b ∧ (initState cv t b d)[15] = d) ∧
  (∀ (cv : Cv) (b d : Word), (initState cv 0xFFFFFFFFFFFFFFFF b d)[12] = 0xFFFFFFFF ∧
    (initState cv 0xFFFFFFFFFFFFFFFF b d)[13] = 0xFFFFFFFF) ∧
  (∀ c : Word, c.extractLsb' 0 8 = 0x09 → c ≠ 0x00000009 → ∃ e, decode c = .error e) ∧
  (∀ t : State, exec .compress State.reset = .next t →
    readReg (.cmpOut 0) t = some 0xfd22061a ∧ readReg (.cmpOut 8) t = some 0x534a82d5)

/-- R140: `ABSORB`. In a state that meets the block's invariant it always completes; it changes the accumulator and the stack, clears
`OUT_VALID` even for no bytes, and touches the error record only through the overflow fault. -/
def Obligations.AbsorbTakesTheFirstBytes : Prop :=
  (∀ n : Nat, n < 256 → encode (.absorb n) = BitVec.ofNat 32 (0x06 + n * 256)) ∧
  (∀ (n : Nat) (s : State), s.fault = true → exec (.absorb n) s = .next s) ∧
  (∀ (n : Nat) (s : State), s.fault = false → s.ready = false ∨ 64 < n → s.err = true → exec (.absorb n) s = .next s) ∧
  (∀ (n : Nat) (s : State), s.fault = false → s.ready = false → s.err = false →
    exec (.absorb n) s = .next { s with err := true, errcode := .notInitialized, errCmd := encode (.absorb n) }) ∧
  (∀ (n : Nat) (s : State), s.fault = false → s.ready = true → 64 < n → s.err = false →
    exec (.absorb n) s = .next { s with err := true, errcode := .badLength, errCmd := encode (.absorb n) }) ∧
  (∀ (n : Nat) (s : State), BlockInv s → s.fault = false → s.ready = true → n ≤ 64 → ∃ t : State,
    exec (.absorb n) s = .next t ∧
    absorbBytes (encode (.absorb n)) ((bytesLe s.din.toList).take n) { s with outValid := false } = .next t ∧
    t = { s with
      outValid := false, err := t.err, fault := t.fault, errcode := t.errcode, errCmd := t.errCmd, chunkCv := t.chunkCv,
      block := t.block, blockLen := t.blockLen, blocksDone := t.blocksDone, chunkCtr := t.chunkCtr, stack := t.stack } ∧
    (t.fault = false → t.err = s.err ∧ t.errcode = s.errcode ∧ t.errCmd = s.errCmd) ∧
    (n = 0 → t = { s with outValid := false })) ∧
  (∀ s t : State, exec .initHash State.reset = .next s →
    exec (.absorb 3) { s with din := s.din.set 0 0x00636261 } = .next t →
    readReg .chunkLen t = some 3 ∧ t.block.toList.take 3 = [0x61, 0x62, 0x63] ∧ t.chunkCv = iv)

/-! ### The compression unit (40_compression.md) -/

/-- R10: `rotr` is the right rotation of a 32-bit word. -/
def Obligations.RotateRightBits : Prop :=
  ∀ (x : Word) (n : Nat), 0 < n → n < 32 → ∀ i : Nat, i < 32 → (rotr x n).getLsbD i = x.getLsbD ((i + n) % 32)

/-- R101, R102 (which the spec marks as derived): what the mixer makes of the four words it is given, and that it leaves the other
twelve. -/
def Obligations.MixerStep : Prop :=
  ∀ (v : Words16) (a b c d : Fin 16) (mx my : Word), [a, b, c, d].Nodup →
    let a1 := v[a] + v[b] + mx
    let d1 := rotr (v[d] ^^^ a1) 16
    let c1 := v[c] + d1
    let b1 := rotr (v[b] ^^^ c1) 12
    let a2 := a1 + b1 + my
    let d2 := rotr (d1 ^^^ a2) 8
    let c2 := c1 + d2
    let b2 := rotr (b1 ^^^ c2) 7
    (g v a b c d mx my)[a] = a2 ∧ (g v a b c d mx my)[b] = b2 ∧ (g v a b c d mx my)[c] = c2 ∧
    (g v a b c d mx my)[d] = d2 ∧ a1.toNat = (v[a].toNat + v[b].toNat + mx.toNat) % 2 ^ 32 ∧
    (∀ k : Fin 16, k ∉ [a, b, c, d] → (g v a b c d mx my)[k] = v[k]) ∧
    (∀ r ∈ gTable, [r.a, r.b, r.c, r.d].Nodup)

/-- R105: within the column group and within the diagonal group the calls may run in any order. -/
def Obligations.RoundOrderFree : Prop :=
  ∀ (v m : Words16) (columns diagonals : List GCall), columns.Perm (gTable.take 4) → diagonals.Perm (gTable.drop 4) →
    (columns ++ diagonals).foldl (gCall m) v = mixRound v m

/-- R110: the schedule table: the seven rounds of a compression take the block words in these orders, each the permutation of the one
before. -/
def Obligations.ScheduleTable : Prop :=
  let table : List (Vector (Fin 16) 16) :=
    [#v[0, 1, 2, 3, 4, 5, 6, 7, 8, 9, 10, 11, 12, 13, 14, 15],
      #v[2, 6, 3, 10, 7, 0, 4, 13, 1, 11, 12, 5, 9, 14, 15, 8],
      #v[3, 4, 10, 12, 13, 2, 7, 14, 6, 5, 9, 0, 11, 15, 8, 1],
      #v[10, 7, 12, 9, 14, 3, 13, 15, 4, 0, 11, 2, 5, 8, 1, 6],
      #v[12, 13, 9, 11, 15, 10, 14, 8, 7, 2, 5, 3, 0, 1, 6, 4],
      #v[9, 14, 11, 5, 8, 12, 15, 1, 13, 3, 0, 10, 2, 6, 4, 7],
      #v[11, 15, 5, 0, 1, 9, 8, 6, 14, 10, 2, 12, 3, 4, 7, 13]]
  (∀ v m : Words16, rounds 7 v m = table.foldl (fun w order => mixRound w (Vector.ofFn fun i => m[order[i]])) v) ∧
  ∀ r : Fin 6, table[r.val + 1]? = (table[r.val]?).map fun order => Vector.ofFn fun i => order[perm[i]]

/-- R112: the feed-forward equals the source's in-place form, which overwrites the state as it goes. -/
def Obligations.FeedForwardInPlace : Prop :=
  ∀ (v : Words16) (cv : Cv),
    feedForward v cv =
      (List.finRange 8).foldl
        (fun (w : Words16) (i : Fin 8) =>
          let w := w.set i.val (w[i.val] ^^^ w[i.val + 8])
          w.set (i.val + 8) (w[i.val + 8] ^^^ cv[i])) v

/-! ### Bytes and words (00_scope.md R13, 20_memory.md) -/

/-- R13, R189, R193: packing the bytes of words gives the words back, and the bytes of packed bytes are those bytes, padded with
zeros. -/
def Obligations.BytesAndWords : Prop :=
  (∀ w : Words16, wordsLe (bytesLe w.toList) = w) ∧
  (∀ w : Vector Word 8, keyWordsLe (bytesLe w.toList) = w) ∧
  (∀ bs : List Byte, bs.length ≤ 64 → bytesLe (wordsLe bs).toList = bs ++ List.replicate (64 - bs.length) 0)

/-- R41, R75: input byte `j` is byte `j mod 4` of `DIN(j div 4)`. -/
def Obligations.InputByteLanes : Prop :=
  ∀ (s : State) (n j : Nat), n ≤ 64 → j < n →
    (absorbOperand n s).length = n ∧
    ∃ h : j / 4 < 16, (absorbOperand n s)[j]? = some (s.din[j / 4].extractLsb' (8 * (j % 4)) 8)

/-! ### The chunk accumulator (41_chunk.md) -/

/-- R135, R137: the byte step in its four cases: the block has room; the block is full; the chunk is full; the chunk is full and the
count of chunks would wrap (R168). -/
def Obligations.AbsorbByteStep : Prop :=
  ∀ (c : Word) (x : Byte) (s : State), s.fault = false →
    (s.blockLen.val < 64 → ∃ t : State, absorbByte c x s = .next t ∧
      t = { s with block := t.block, blockLen := t.blockLen } ∧ t.blockLen.val = s.blockLen.val + 1 ∧
      ∀ j : Fin 64, t.block[j] = if j.val = s.blockLen.val then x else s.block[j]) ∧
    (s.blockLen.val = 64 → s.blocksDone.val < 15 → ∃ t : State, absorbByte c x s = .next t ∧
      t = { s with block := t.block, blockLen := 1, blocksDone := t.blocksDone, chunkCv := t.chunkCv } ∧
      t.blocksDone.val = s.blocksDone.val + 1 ∧ (∀ j : Fin 64, t.block[j] = if j = 0 then x else 0) ∧
      t.chunkCv = cvOf (compress s.chunkCv (wordsLe s.block.toList) s.chunkCtr 64
        (mflags s.mode ||| if s.blocksDone = 0 then flagChunkStart else 0))) ∧
    (s.blockLen.val = 64 → s.blocksDone.val = 15 → s.chunkCtr.toNat + 1 < 2 ^ 64 → ∀ s' : State,
      merge (chainingValue (chunkNode s)) (s.chunkCtr + 1) s = some s' → ∃ t : State, absorbByte c x s = .next t ∧
      t = { s with
        stack := s'.stack, chunkCv := s.keyCv, block := t.block, blockLen := 1, blocksDone := 0,
        chunkCtr := s.chunkCtr + 1 } ∧
      ∀ j : Fin 64, t.block[j] = if j = 0 then x else 0) ∧
    (s.blockLen.val = 64 → s.blocksDone.val = 15 → s.chunkCtr.toNat + 1 = 2 ^ 64 → s.err = true →
      absorbByte c x s = .next { s with fault := true }) ∧
    (s.blockLen.val = 64 → s.blocksDone.val = 15 → s.chunkCtr.toNat + 1 = 2 ^ 64 → s.err = false →
      absorbByte c x s =
        .next { s with fault := true, err := true, errcode := .counterOverflow, errCmd := c })

/-- R79, R141: an input of `N` bytes, fewer than `2^64 * 1024 + 1`, in pieces of any sizes, is absorbed whole with no fault, and the
progress counts are these functions of `N`. -/
def Obligations.ProgressCounts : Prop :=
  ∀ (s : State) (ps : List (Nat × Words16)), FreshHasher s → (∀ p ∈ ps, p.1 ≤ 64) →
    (pieceBytes ps).length < 2 ^ 64 * 1024 + 1 →
    ∃ t : State, absorbPieces ps s = .next t ∧ t.fault = false ∧
      ((pieceBytes ps).length = 0 →
        t.chunkCtr = 0 ∧ chunkLen t = 0 ∧ t.blocksDone = 0 ∧ t.blockLen = 0 ∧ t.stack = []) ∧
      (1 ≤ (pieceBytes ps).length →
        t.chunkCtr.toNat = ((pieceBytes ps).length - 1) / 1024 ∧
        chunkLen t = (pieceBytes ps).length - 1024 * t.chunkCtr.toNat ∧
        t.blocksDone.val = (chunkLen t - 1) / 64 ∧
        t.blockLen.val = chunkLen t - 64 * t.blocksDone.val ∧
        t.stack.length = popcount t.chunkCtr)

/-- R97, R143: the hasher state after an input does not depend on how the input was split into `ABSORB` commands. -/
def Obligations.SplitsDoNotMatter : Prop :=
  ∀ (s t : State) (ps qs : List (Nat × Words16)), s.ready = true → s.fault = false →
    (∀ p ∈ ps, p.1 ≤ 64) → (∀ q ∈ qs, q.1 ≤ 64) → pieceBytes ps = pieceBytes qs →
    absorbPieces ps s = .next t → t.fault = false →
    ∃ u : State, absorbPieces qs s = .next u ∧ u = { t with din := u.din, outValid := u.outValid }

/-- R139, R50, R51: the node of the empty chunk, and the values of the flags as numbers. The spec marks the flag values as general
knowledge (log entry 12). -/
def Obligations.EmptyChunkNode : Prop :=
  (flagChunkStart = 0x01 ∧ flagChunkEnd = 0x02 ∧ flagParent = 0x04 ∧ flagRoot = 0x08 ∧ flagKeyedHash = 0x10 ∧
    flagDeriveKeyContext = 0x20 ∧ flagDeriveKeyMaterial = 0x40) ∧
  (mflags .none = 0 ∧ mflags .plain = 0 ∧ mflags .keyed = 0x10 ∧ mflags .deriveContext = 0x20 ∧
    mflags .deriveMaterial = 0x40) ∧
  (∀ s : State, (chunkNode s).d = mflags s.mode ||| (if s.blocksDone = 0 then 0x01 else 0) ||| 0x02) ∧
  ∀ s : State, FreshHasher s →
    chunkNode s =
      { cv := s.keyCv, blk := Vector.replicate 16 0, t := 0, b := 0,
        d := mflags s.mode ||| flagChunkStart ||| flagChunkEnd } ∧
    rootNode s = chunkNode s

/-- R137, R138: after an input the accumulator holds the node of its last chunk, the chunk's earlier blocks chained and its last block
buffered (`leafNode` is the model's reference, log entry 17). -/
def Obligations.ChunkNodeOfTheInput : Prop :=
  ∀ (s t : State) (ps : List (Nat × Words16)), FreshHasher s → (∀ p ∈ ps, p.1 ≤ 64) →
    absorbPieces ps s = .next t → t.fault = false →
    chunkNode t =
      leafNode s.keyCv s.mode (((pieceBytes ps).length - 1) / 1024)
        (chunkBytes (pieceBytes ps) (((pieceBytes ps).length - 1) / 1024))

/-! ### The tree-merge stack and the root (42_tree.md) -/

/-- R166: a merge of the `total`-th chunk always finds its entries, leaves as many entries as `total` has set bits, at most 64, and changes
the stack alone. -/
def Obligations.MergeKeepsTheCount : Prop :=
  ∀ (s : State) (ccv : Cv) (total : Counter), total ≠ 0 → s.stack.length = popcount (total - 1) →
    ∃ s' : State, merge ccv total s = some s' ∧ s' = { s with stack := s'.stack } ∧
      s'.stack.length = popcount total ∧ popcount total ≤ 64

/-- R166, R172: chunks merged one after another leave the chaining value of the complete subtree of each set bit of their number, the
most significant first (the reference tree is the model's, log entry 17). -/
def Obligations.StackHoldsCompleteSubtrees : Prop :=
  ∀ (s : State) (cs : List Cv), s.stack = [] → cs.length < 2 ^ 64 →
    mergeAll cs 1 s = some { s with stack := subtreeStack s.keyCv s.mode 64 cs }

/-- R169, R170: the root of an input is the root of the tree built over its chunks at once (the reference tree is the
model's, log entry 17). -/
def Obligations.RootIsTheMerkleRoot : Prop :=
  ∀ (s t : State) (ps : List (Nat × Words16)), FreshHasher s → (∀ p ∈ ps, p.1 ≤ 64) →
    absorbPieces ps s = .next t → t.fault = false →
    let leaves := leafNodes s.keyCv s.mode (pieceBytes ps)
    rootNode t = merkleRoot s.keyCv s.mode leaves.length leaves

/-- R162, R170, R171: what a parent node is (its input chaining value and flag value are the spec's general knowledge, log entry 12); with
an empty stack the root is the chunk node; the current chunk, even a full one, is the right child of the newest
entry; and with an older entry below, the root is the parent of that entry and of the root there was. -/
def Obligations.RootFoldCorners : Prop :=
  (∀ (key : Cv) (mode : Mode) (left right : Cv), parentNode key mode left right =
    { cv := key, blk := left ++ right, t := 0, b := 64, d := mflags mode ||| 0x04 }) ∧
  (∀ s : State, BlockInv s → s.ready = true → s.fault = false → s.stack = [] →
    s.chunkCtr = 0 ∧ rootNode s = chunkNode s) ∧
  (∀ (s : State) (left : Cv), s.stack = [left] →
    rootNode s = parentNode s.keyCv s.mode left (chainingValue (chunkNode s))) ∧
  (∀ (s : State) (oldest : Cv), rootNode { s with stack := oldest :: s.stack } =
    parentNode s.keyCv s.mode oldest (chainingValue (rootNode s)))

/-! ### Output (44_output.md) -/

/-- R213: after a `FINALIZE` and `j` `SQUEEZE`s, `DOUT` is output block `j - 1` of the root of the state that was finalized. -/
def Obligations.SqueezedBlocks : Prop :=
  ∀ (s s' : State) (j : Nat), s.fault = false → s.ready = true → exec .finalize s = .next s' → 1 ≤ j → j ≤ 2 ^ 64 →
    ∃ t : State, squeezeTimes j s' = .next t ∧ t.outCtr = BitVec.ofNat 64 j ∧
      t.dout = compress (rootNode s).cv (rootNode s).blk (BitVec.ofNat 64 (j - 1)) (rootNode s).b
        ((rootNode s).d ||| flagRoot) ∧
      bytesLe t.dout.toList = bytesLe (outputBlock (captureRoot (rootNode s)) (BitVec.ofNat 64 (j - 1))).toList

/-- R219: `FINALIZE` and `SQUEEZE` change only `S.onode`, `S.out_ctr`, `S.out_valid` and `DOUT`, so the root is the same before and after
and output begun again is the same. -/
def Obligations.OutputKeepsTheHasher : Prop :=
  ∀ (i : Instr) (s t : State), s.fault = false → s.ready = true → i = .finalize ∨ (i = .squeeze ∧ s.outValid = true) →
    exec i s = .next t →
    t = { s with onode := t.onode, outCtr := t.outCtr, outValid := t.outValid, dout := t.dout } ∧
    rootNode t = rootNode s ∧
    ∀ u v : State, exec .finalize s = .next u → exec .finalize t = .next v → v.onode = u.onode ∧ v.outCtr = u.outCtr

/-! ### Invariants -/

/-- R56, R53, R30: the reset state meets the block's invariant, and its output is (vacuously) current. -/
def Obligations.ResetMeetsTheInvariants : Prop := BlockInv State.reset ∧ OutputCurrent State.reset

/-- R56, R53: every step keeps the block's invariant, whatever the host does. -/
def Obligations.StepKeepsTheBlockInvariant : Prop :=
  ∀ s t : State, BlockInv s → step s = .next t → BlockInv t

/-- R30: every step keeps the output current: while `S.out_valid = 1`, `S.onode` is the root node of everything absorbed so far. -/
def Obligations.StepKeepsTheOutputCurrent : Prop :=
  ∀ s t : State, OutputCurrent s → step s = .next t → OutputCurrent t

/-- R56: the five invariants, in every state a run from reset reaches. -/
def Obligations.ReachableStatesMeetTheInvariants : Prop :=
  ∀ s : State, Reachable s →
    (s.ready = false ↔ s.mode = .none) ∧
    s.blocksDone.val ≤ 15 ∧ (1 ≤ s.blocksDone.val → 1 ≤ s.blockLen.val) ∧
    64 * s.blocksDone.val + s.blockLen.val ≤ 1024 ∧
    (s.ready = true → s.fault = false → s.stack.length = popcount s.chunkCtr) ∧ s.stack.length ≤ 64 ∧
    (s.err = false → errBits s.errcode = 0 ∧ s.errCmd = 0) ∧
    (s.err = true → 1 ≤ (errBits s.errcode).toNat ∧ (errBits s.errcode).toNat ≤ 7)

/-- R17, R167: in a state that meets the block's invariant every command word completes and every step is safe: the merge stack never
underflows. -/
def Obligations.EveryCommandCompletes : Prop :=
  ∀ s : State, BlockInv s → (∀ c : Word, ∃ t, executeWord c s = .next t) ∧ Safe (step s)
end

