-- ==== Sys2Proof/Laws/State.lean ====
section
/-! SUPPORT. One lemma per field per update: what each shared operation of `Machine/Ops.lean`, `Machine/Chunk.lean` and
`Machine/HostPort.lean` makes of each field of the state, so that no later proof unfolds a record update. -/

namespace Sys2Proof.Machine

/-! ### `recordError` (R240) -/

@[simp] theorem recordError_ready (e : ErrCode) (c : Word) (s : State) : (recordError e c s).ready = s.ready := by
  unfold recordError; split <;> rfl

@[simp] theorem recordError_fault (e : ErrCode) (c : Word) (s : State) : (recordError e c s).fault = s.fault := by
  unfold recordError; split <;> rfl

@[simp] theorem recordError_outValid (e : ErrCode) (c : Word) (s : State) : (recordError e c s).outValid = s.outValid := by
  unfold recordError; split <;> rfl

@[simp] theorem recordError_mode (e : ErrCode) (c : Word) (s : State) : (recordError e c s).mode = s.mode := by
  unfold recordError; split <;> rfl

@[simp] theorem recordError_keyCv (e : ErrCode) (c : Word) (s : State) : (recordError e c s).keyCv = s.keyCv := by
  unfold recordError; split <;> rfl

@[simp] theorem recordError_chunkCv (e : ErrCode) (c : Word) (s : State) : (recordError e c s).chunkCv = s.chunkCv := by
  unfold recordError; split <;> rfl

@[simp] theorem recordError_block (e : ErrCode) (c : Word) (s : State) : (recordError e c s).block = s.block := by
  unfold recordError; split <;> rfl

@[simp] theorem recordError_blockLen (e : ErrCode) (c : Word) (s : State) : (recordError e c s).blockLen = s.blockLen := by
  unfold recordError; split <;> rfl

@[simp] theorem recordError_blocksDone (e : ErrCode) (c : Word) (s : State) : (recordError e c s).blocksDone = s.blocksDone := by
  unfold recordError; split <;> rfl

@[simp] theorem recordError_chunkCtr (e : ErrCode) (c : Word) (s : State) : (recordError e c s).chunkCtr = s.chunkCtr := by
  unfold recordError; split <;> rfl

@[simp] theorem recordError_stack (e : ErrCode) (c : Word) (s : State) : (recordError e c s).stack = s.stack := by
  unfold recordError; split <;> rfl

@[simp] theorem recordError_onode (e : ErrCode) (c : Word) (s : State) : (recordError e c s).onode = s.onode := by
  unfold recordError; split <;> rfl

@[simp] theorem recordError_outCtr (e : ErrCode) (c : Word) (s : State) : (recordError e c s).outCtr = s.outCtr := by
  unfold recordError; split <;> rfl

@[simp] theorem recordError_key (e : ErrCode) (c : Word) (s : State) : (recordError e c s).key = s.key := by
  unfold recordError; split <;> rfl

@[simp] theorem recordError_din (e : ErrCode) (c : Word) (s : State) : (recordError e c s).din = s.din := by
  unfold recordError; split <;> rfl

@[simp] theorem recordError_dout (e : ErrCode) (c : Word) (s : State) : (recordError e c s).dout = s.dout := by
  unfold recordError; split <;> rfl

@[simp] theorem recordError_cvIn (e : ErrCode) (c : Word) (s : State) : (recordError e c s).cvIn = s.cvIn := by
  unfold recordError; split <;> rfl

@[simp] theorem recordError_tLo (e : ErrCode) (c : Word) (s : State) : (recordError e c s).tLo = s.tLo := by
  unfold recordError; split <;> rfl

@[simp] theorem recordError_tHi (e : ErrCode) (c : Word) (s : State) : (recordError e c s).tHi = s.tHi := by
  unfold recordError; split <;> rfl

@[simp] theorem recordError_bLen (e : ErrCode) (c : Word) (s : State) : (recordError e c s).bLen = s.bLen := by
  unfold recordError; split <;> rfl

@[simp] theorem recordError_dFlags (e : ErrCode) (c : Word) (s : State) : (recordError e c s).dFlags = s.dFlags := by
  unfold recordError; split <;> rfl

@[simp] theorem recordError_mIn (e : ErrCode) (c : Word) (s : State) : (recordError e c s).mIn = s.mIn := by
  unfold recordError; split <;> rfl

@[simp] theorem recordError_cmpOut (e : ErrCode) (c : Word) (s : State) : (recordError e c s).cmpOut = s.cmpOut := by
  unfold recordError; split <;> rfl

@[simp] theorem recordError_pending (e : ErrCode) (c : Word) (s : State) : (recordError e c s).pending = s.pending := by
  unfold recordError; split <;> rfl

@[simp] theorem recordError_returned (e : ErrCode) (c : Word) (s : State) : (recordError e c s).returned = s.returned := by
  unfold recordError; split <;> rfl

@[simp] theorem recordError_err (e : ErrCode) (c : Word) (s : State) : (recordError e c s).err = true := by
  unfold recordError; split <;> simp_all

theorem recordError_errcode (e : ErrCode) (c : Word) (s : State) :
    (recordError e c s).errcode = if s.err then s.errcode else e := by
  unfold recordError; split <;> simp_all

theorem recordError_errCmd (e : ErrCode) (c : Word) (s : State) :
    (recordError e c s).errCmd = if s.err then s.errCmd else c := by
  unfold recordError; split <;> simp_all

/-! ### `chunkOverflowFault` -/

@[simp] theorem chunkOverflowFault_ready (c : Word) (s : State) :
    (chunkOverflowFault c s).ready = s.ready := by simp [chunkOverflowFault]
@[simp] theorem chunkOverflowFault_fault (c : Word) (s : State) :
    (chunkOverflowFault c s).fault = true := by simp [chunkOverflowFault]
@[simp] theorem chunkOverflowFault_outValid (c : Word) (s : State) :
    (chunkOverflowFault c s).outValid = s.outValid := by simp [chunkOverflowFault]
@[simp] theorem chunkOverflowFault_mode (c : Word) (s : State) :
    (chunkOverflowFault c s).mode = s.mode := by simp [chunkOverflowFault]
@[simp] theorem chunkOverflowFault_keyCv (c : Word) (s : State) :
    (chunkOverflowFault c s).keyCv = s.keyCv := by simp [chunkOverflowFault]
@[simp] theorem chunkOverflowFault_chunkCv (c : Word) (s : State) :
    (chunkOverflowFault c s).chunkCv = s.chunkCv := by simp [chunkOverflowFault]
@[simp] theorem chunkOverflowFault_block (c : Word) (s : State) :
    (chunkOverflowFault c s).block = s.block := by simp [chunkOverflowFault]
@[simp] theorem chunkOverflowFault_blockLen (c : Word) (s : State) :
    (chunkOverflowFault c s).blockLen = s.blockLen := by simp [chunkOverflowFault]
@[simp] theorem chunkOverflowFault_blocksDone (c : Word) (s : State) :
    (chunkOverflowFault c s).blocksDone = s.blocksDone := by simp [chunkOverflowFault]
@[simp] theorem chunkOverflowFault_chunkCtr (c : Word) (s : State) :
    (chunkOverflowFault c s).chunkCtr = s.chunkCtr := by simp [chunkOverflowFault]
@[simp] theorem chunkOverflowFault_stack (c : Word) (s : State) :
    (chunkOverflowFault c s).stack = s.stack := by simp [chunkOverflowFault]
@[simp] theorem chunkOverflowFault_onode (c : Word) (s : State) :
    (chunkOverflowFault c s).onode = s.onode := by simp [chunkOverflowFault]
@[simp] theorem chunkOverflowFault_outCtr (c : Word) (s : State) :
    (chunkOverflowFault c s).outCtr = s.outCtr := by simp [chunkOverflowFault]
@[simp] theorem chunkOverflowFault_key (c : Word) (s : State) :
    (chunkOverflowFault c s).key = s.key := by simp [chunkOverflowFault]
@[simp] theorem chunkOverflowFault_din (c : Word) (s : State) :
    (chunkOverflowFault c s).din = s.din := by simp [chunkOverflowFault]
@[simp] theorem chunkOverflowFault_dout (c : Word) (s : State) :
    (chunkOverflowFault c s).dout = s.dout := by simp [chunkOverflowFault]
@[simp] theorem chunkOverflowFault_cvIn (c : Word) (s : State) :
    (chunkOverflowFault c s).cvIn = s.cvIn := by simp [chunkOverflowFault]
@[simp] theorem chunkOverflowFault_tLo (c : Word) (s : State) :
    (chunkOverflowFault c s).tLo = s.tLo := by simp [chunkOverflowFault]
@[simp] theorem chunkOverflowFault_tHi (c : Word) (s : State) :
    (chunkOverflowFault c s).tHi = s.tHi := by simp [chunkOverflowFault]
@[simp] theorem chunkOverflowFault_bLen (c : Word) (s : State) :
    (chunkOverflowFault c s).bLen = s.bLen := by simp [chunkOverflowFault]
@[simp] theorem chunkOverflowFault_dFlags (c : Word) (s : State) :
    (chunkOverflowFault c s).dFlags = s.dFlags := by simp [chunkOverflowFault]
@[simp] theorem chunkOverflowFault_mIn (c : Word) (s : State) :
    (chunkOverflowFault c s).mIn = s.mIn := by simp [chunkOverflowFault]
@[simp] theorem chunkOverflowFault_cmpOut (c : Word) (s : State) :
    (chunkOverflowFault c s).cmpOut = s.cmpOut := by simp [chunkOverflowFault]
@[simp] theorem chunkOverflowFault_pending (c : Word) (s : State) :
    (chunkOverflowFault c s).pending = s.pending := by simp [chunkOverflowFault]
@[simp] theorem chunkOverflowFault_returned (c : Word) (s : State) :
    (chunkOverflowFault c s).returned = s.returned := by simp [chunkOverflowFault]

/-! ### `clearRecord` -/

@[simp] theorem clearRecord_ready (s : State) : (clearRecord s).ready = s.ready := rfl
@[simp] theorem clearRecord_err (s : State) : (clearRecord s).err = false := rfl
@[simp] theorem clearRecord_fault (s : State) : (clearRecord s).fault = s.fault := rfl
@[simp] theorem clearRecord_outValid (s : State) : (clearRecord s).outValid = s.outValid := rfl
@[simp] theorem clearRecord_errcode (s : State) : (clearRecord s).errcode = .none := rfl
@[simp] theorem clearRecord_errCmd (s : State) : (clearRecord s).errCmd = 0 := rfl
@[simp] theorem clearRecord_mode (s : State) : (clearRecord s).mode = s.mode := rfl
@[simp] theorem clearRecord_keyCv (s : State) : (clearRecord s).keyCv = s.keyCv := rfl
@[simp] theorem clearRecord_chunkCv (s : State) : (clearRecord s).chunkCv = s.chunkCv := rfl
@[simp] theorem clearRecord_block (s : State) : (clearRecord s).block = s.block := rfl
@[simp] theorem clearRecord_blockLen (s : State) : (clearRecord s).blockLen = s.blockLen := rfl
@[simp] theorem clearRecord_blocksDone (s : State) : (clearRecord s).blocksDone = s.blocksDone := rfl
@[simp] theorem clearRecord_chunkCtr (s : State) : (clearRecord s).chunkCtr = s.chunkCtr := rfl
@[simp] theorem clearRecord_stack (s : State) : (clearRecord s).stack = s.stack := rfl
@[simp] theorem clearRecord_onode (s : State) : (clearRecord s).onode = s.onode := rfl
@[simp] theorem clearRecord_outCtr (s : State) : (clearRecord s).outCtr = s.outCtr := rfl
@[simp] theorem clearRecord_key (s : State) : (clearRecord s).key = s.key := rfl
@[simp] theorem clearRecord_din (s : State) : (clearRecord s).din = s.din := rfl
@[simp] theorem clearRecord_dout (s : State) : (clearRecord s).dout = s.dout := rfl
@[simp] theorem clearRecord_cvIn (s : State) : (clearRecord s).cvIn = s.cvIn := rfl
@[simp] theorem clearRecord_tLo (s : State) : (clearRecord s).tLo = s.tLo := rfl
@[simp] theorem clearRecord_tHi (s : State) : (clearRecord s).tHi = s.tHi := rfl
@[simp] theorem clearRecord_bLen (s : State) : (clearRecord s).bLen = s.bLen := rfl
@[simp] theorem clearRecord_dFlags (s : State) : (clearRecord s).dFlags = s.dFlags := rfl
@[simp] theorem clearRecord_mIn (s : State) : (clearRecord s).mIn = s.mIn := rfl
@[simp] theorem clearRecord_cmpOut (s : State) : (clearRecord s).cmpOut = s.cmpOut := rfl
@[simp] theorem clearRecord_pending (s : State) : (clearRecord s).pending = s.pending := rfl
@[simp] theorem clearRecord_returned (s : State) : (clearRecord s).returned = s.returned := rfl

/-! ### `freshChunk` -/

@[simp] theorem freshChunk_ready (k : Counter) (s : State) : (freshChunk k s).ready = s.ready := rfl
@[simp] theorem freshChunk_err (k : Counter) (s : State) : (freshChunk k s).err = s.err := rfl
@[simp] theorem freshChunk_fault (k : Counter) (s : State) : (freshChunk k s).fault = s.fault := rfl
@[simp] theorem freshChunk_outValid (k : Counter) (s : State) : (freshChunk k s).outValid = s.outValid := rfl
@[simp] theorem freshChunk_errcode (k : Counter) (s : State) : (freshChunk k s).errcode = s.errcode := rfl
@[simp] theorem freshChunk_errCmd (k : Counter) (s : State) : (freshChunk k s).errCmd = s.errCmd := rfl
@[simp] theorem freshChunk_mode (k : Counter) (s : State) : (freshChunk k s).mode = s.mode := rfl
@[simp] theorem freshChunk_keyCv (k : Counter) (s : State) : (freshChunk k s).keyCv = s.keyCv := rfl
@[simp] theorem freshChunk_chunkCv (k : Counter) (s : State) : (freshChunk k s).chunkCv = s.keyCv := rfl
@[simp] theorem freshChunk_block (k : Counter) (s : State) : (freshChunk k s).block = Vector.replicate 64 0 := rfl
@[simp] theorem freshChunk_blockLen (k : Counter) (s : State) : (freshChunk k s).blockLen = 0 := rfl
@[simp] theorem freshChunk_blocksDone (k : Counter) (s : State) : (freshChunk k s).blocksDone = 0 := rfl
@[simp] theorem freshChunk_chunkCtr (k : Counter) (s : State) : (freshChunk k s).chunkCtr = k := rfl
@[simp] theorem freshChunk_stack (k : Counter) (s : State) : (freshChunk k s).stack = s.stack := rfl
@[simp] theorem freshChunk_onode (k : Counter) (s : State) : (freshChunk k s).onode = s.onode := rfl
@[simp] theorem freshChunk_outCtr (k : Counter) (s : State) : (freshChunk k s).outCtr = s.outCtr := rfl
@[simp] theorem freshChunk_key (k : Counter) (s : State) : (freshChunk k s).key = s.key := rfl
@[simp] theorem freshChunk_din (k : Counter) (s : State) : (freshChunk k s).din = s.din := rfl
@[simp] theorem freshChunk_dout (k : Counter) (s : State) : (freshChunk k s).dout = s.dout := rfl
@[simp] theorem freshChunk_cvIn (k : Counter) (s : State) : (freshChunk k s).cvIn = s.cvIn := rfl
@[simp] theorem freshChunk_tLo (k : Counter) (s : State) : (freshChunk k s).tLo = s.tLo := rfl
@[simp] theorem freshChunk_tHi (k : Counter) (s : State) : (freshChunk k s).tHi = s.tHi := rfl
@[simp] theorem freshChunk_bLen (k : Counter) (s : State) : (freshChunk k s).bLen = s.bLen := rfl
@[simp] theorem freshChunk_dFlags (k : Counter) (s : State) : (freshChunk k s).dFlags = s.dFlags := rfl
@[simp] theorem freshChunk_mIn (k : Counter) (s : State) : (freshChunk k s).mIn = s.mIn := rfl
@[simp] theorem freshChunk_cmpOut (k : Counter) (s : State) : (freshChunk k s).cmpOut = s.cmpOut := rfl
@[simp] theorem freshChunk_pending (k : Counter) (s : State) : (freshChunk k s).pending = s.pending := rfl
@[simp] theorem freshChunk_returned (k : Counter) (s : State) : (freshChunk k s).returned = s.returned := rfl

/-! ### `hasherInit` -/

@[simp] theorem hasherInit_ready (k : Cv) (m : Mode) (s : State) : (hasherInit k m s).ready = true := rfl
@[simp] theorem hasherInit_err (k : Cv) (m : Mode) (s : State) : (hasherInit k m s).err = s.err := rfl
@[simp] theorem hasherInit_fault (k : Cv) (m : Mode) (s : State) : (hasherInit k m s).fault = s.fault := rfl
@[simp] theorem hasherInit_outValid (k : Cv) (m : Mode) (s : State) : (hasherInit k m s).outValid = false := rfl
@[simp] theorem hasherInit_errcode (k : Cv) (m : Mode) (s : State) : (hasherInit k m s).errcode = s.errcode := rfl
@[simp] theorem hasherInit_errCmd (k : Cv) (m : Mode) (s : State) : (hasherInit k m s).errCmd = s.errCmd := rfl
@[simp] theorem hasherInit_mode (k : Cv) (m : Mode) (s : State) : (hasherInit k m s).mode = m := rfl
@[simp] theorem hasherInit_keyCv (k : Cv) (m : Mode) (s : State) : (hasherInit k m s).keyCv = k := rfl
@[simp] theorem hasherInit_chunkCv (k : Cv) (m : Mode) (s : State) : (hasherInit k m s).chunkCv = k := rfl
@[simp] theorem hasherInit_block (k : Cv) (m : Mode) (s : State) :
    (hasherInit k m s).block = Vector.replicate 64 0 := rfl
@[simp] theorem hasherInit_blockLen (k : Cv) (m : Mode) (s : State) : (hasherInit k m s).blockLen = 0 := rfl
@[simp] theorem hasherInit_blocksDone (k : Cv) (m : Mode) (s : State) : (hasherInit k m s).blocksDone = 0 := rfl
@[simp] theorem hasherInit_chunkCtr (k : Cv) (m : Mode) (s : State) : (hasherInit k m s).chunkCtr = 0 := rfl
@[simp] theorem hasherInit_stack (k : Cv) (m : Mode) (s : State) : (hasherInit k m s).stack = [] := rfl
@[simp] theorem hasherInit_onode (k : Cv) (m : Mode) (s : State) : (hasherInit k m s).onode = s.onode := rfl
@[simp] theorem hasherInit_outCtr (k : Cv) (m : Mode) (s : State) : (hasherInit k m s).outCtr = 0 := rfl
@[simp] theorem hasherInit_key (k : Cv) (m : Mode) (s : State) : (hasherInit k m s).key = s.key := rfl
@[simp] theorem hasherInit_din (k : Cv) (m : Mode) (s : State) : (hasherInit k m s).din = s.din := rfl
@[simp] theorem hasherInit_dout (k : Cv) (m : Mode) (s : State) : (hasherInit k m s).dout = s.dout := rfl
@[simp] theorem hasherInit_cvIn (k : Cv) (m : Mode) (s : State) : (hasherInit k m s).cvIn = s.cvIn := rfl
@[simp] theorem hasherInit_tLo (k : Cv) (m : Mode) (s : State) : (hasherInit k m s).tLo = s.tLo := rfl
@[simp] theorem hasherInit_tHi (k : Cv) (m : Mode) (s : State) : (hasherInit k m s).tHi = s.tHi := rfl
@[simp] theorem hasherInit_bLen (k : Cv) (m : Mode) (s : State) : (hasherInit k m s).bLen = s.bLen := rfl
@[simp] theorem hasherInit_dFlags (k : Cv) (m : Mode) (s : State) : (hasherInit k m s).dFlags = s.dFlags := rfl
@[simp] theorem hasherInit_mIn (k : Cv) (m : Mode) (s : State) : (hasherInit k m s).mIn = s.mIn := rfl
@[simp] theorem hasherInit_cmpOut (k : Cv) (m : Mode) (s : State) : (hasherInit k m s).cmpOut = s.cmpOut := rfl
@[simp] theorem hasherInit_pending (k : Cv) (m : Mode) (s : State) : (hasherInit k m s).pending = s.pending := rfl
@[simp] theorem hasherInit_returned (k : Cv) (m : Mode) (s : State) : (hasherInit k m s).returned = s.returned := rfl

/-! ### `compressBlock` -/

@[simp] theorem compressBlock_ready (s : State) : (compressBlock s).ready = s.ready := rfl
@[simp] theorem compressBlock_err (s : State) : (compressBlock s).err = s.err := rfl
@[simp] theorem compressBlock_fault (s : State) : (compressBlock s).fault = s.fault := rfl
@[simp] theorem compressBlock_outValid (s : State) : (compressBlock s).outValid = s.outValid := rfl
@[simp] theorem compressBlock_errcode (s : State) : (compressBlock s).errcode = s.errcode := rfl
@[simp] theorem compressBlock_errCmd (s : State) : (compressBlock s).errCmd = s.errCmd := rfl
@[simp] theorem compressBlock_mode (s : State) : (compressBlock s).mode = s.mode := rfl
@[simp] theorem compressBlock_keyCv (s : State) : (compressBlock s).keyCv = s.keyCv := rfl
@[simp] theorem compressBlock_chunkCv (s : State) :
    (compressBlock s).chunkCv = cvOf (compress s.chunkCv (wordsLe s.block.toList) s.chunkCtr 64 (mflags s.mode ||| startFlag s)) := rfl
@[simp] theorem compressBlock_block (s : State) : (compressBlock s).block = Vector.replicate 64 0 := rfl
@[simp] theorem compressBlock_blockLen (s : State) : (compressBlock s).blockLen = 0 := rfl
@[simp] theorem compressBlock_blocksDone (s : State) :
    (compressBlock s).blocksDone = Fin.ofNat 16 (s.blocksDone.val + 1) := rfl
@[simp] theorem compressBlock_chunkCtr (s : State) : (compressBlock s).chunkCtr = s.chunkCtr := rfl
@[simp] theorem compressBlock_stack (s : State) : (compressBlock s).stack = s.stack := rfl
@[simp] theorem compressBlock_onode (s : State) : (compressBlock s).onode = s.onode := rfl
@[simp] theorem compressBlock_outCtr (s : State) : (compressBlock s).outCtr = s.outCtr := rfl
@[simp] theorem compressBlock_key (s : State) : (compressBlock s).key = s.key := rfl
@[simp] theorem compressBlock_din (s : State) : (compressBlock s).din = s.din := rfl
@[simp] theorem compressBlock_dout (s : State) : (compressBlock s).dout = s.dout := rfl
@[simp] theorem compressBlock_cvIn (s : State) : (compressBlock s).cvIn = s.cvIn := rfl
@[simp] theorem compressBlock_tLo (s : State) : (compressBlock s).tLo = s.tLo := rfl
@[simp] theorem compressBlock_tHi (s : State) : (compressBlock s).tHi = s.tHi := rfl
@[simp] theorem compressBlock_bLen (s : State) : (compressBlock s).bLen = s.bLen := rfl
@[simp] theorem compressBlock_dFlags (s : State) : (compressBlock s).dFlags = s.dFlags := rfl
@[simp] theorem compressBlock_mIn (s : State) : (compressBlock s).mIn = s.mIn := rfl
@[simp] theorem compressBlock_cmpOut (s : State) : (compressBlock s).cmpOut = s.cmpOut := rfl
@[simp] theorem compressBlock_pending (s : State) : (compressBlock s).pending = s.pending := rfl
@[simp] theorem compressBlock_returned (s : State) : (compressBlock s).returned = s.returned := rfl

/-! ### `storeByte` -/

@[simp] theorem storeByte_ready (x : Byte) (s : State) : (storeByte x s).ready = s.ready := rfl
@[simp] theorem storeByte_err (x : Byte) (s : State) : (storeByte x s).err = s.err := rfl
@[simp] theorem storeByte_fault (x : Byte) (s : State) : (storeByte x s).fault = s.fault := rfl
@[simp] theorem storeByte_outValid (x : Byte) (s : State) : (storeByte x s).outValid = s.outValid := rfl
@[simp] theorem storeByte_errcode (x : Byte) (s : State) : (storeByte x s).errcode = s.errcode := rfl
@[simp] theorem storeByte_errCmd (x : Byte) (s : State) : (storeByte x s).errCmd = s.errCmd := rfl
@[simp] theorem storeByte_mode (x : Byte) (s : State) : (storeByte x s).mode = s.mode := rfl
@[simp] theorem storeByte_keyCv (x : Byte) (s : State) : (storeByte x s).keyCv = s.keyCv := rfl
@[simp] theorem storeByte_chunkCv (x : Byte) (s : State) : (storeByte x s).chunkCv = s.chunkCv := rfl
@[simp] theorem storeByte_block (x : Byte) (s : State) :
    (storeByte x s).block = s.block.setIfInBounds s.blockLen.val x := rfl
@[simp] theorem storeByte_blockLen (x : Byte) (s : State) :
    (storeByte x s).blockLen = Fin.ofNat 65 (s.blockLen.val + 1) := rfl
@[simp] theorem storeByte_blocksDone (x : Byte) (s : State) : (storeByte x s).blocksDone = s.blocksDone := rfl
@[simp] theorem storeByte_chunkCtr (x : Byte) (s : State) : (storeByte x s).chunkCtr = s.chunkCtr := rfl
@[simp] theorem storeByte_stack (x : Byte) (s : State) : (storeByte x s).stack = s.stack := rfl
@[simp] theorem storeByte_onode (x : Byte) (s : State) : (storeByte x s).onode = s.onode := rfl
@[simp] theorem storeByte_outCtr (x : Byte) (s : State) : (storeByte x s).outCtr = s.outCtr := rfl
@[simp] theorem storeByte_key (x : Byte) (s : State) : (storeByte x s).key = s.key := rfl
@[simp] theorem storeByte_din (x : Byte) (s : State) : (storeByte x s).din = s.din := rfl
@[simp] theorem storeByte_dout (x : Byte) (s : State) : (storeByte x s).dout = s.dout := rfl
@[simp] theorem storeByte_cvIn (x : Byte) (s : State) : (storeByte x s).cvIn = s.cvIn := rfl
@[simp] theorem storeByte_tLo (x : Byte) (s : State) : (storeByte x s).tLo = s.tLo := rfl
@[simp] theorem storeByte_tHi (x : Byte) (s : State) : (storeByte x s).tHi = s.tHi := rfl
@[simp] theorem storeByte_bLen (x : Byte) (s : State) : (storeByte x s).bLen = s.bLen := rfl
@[simp] theorem storeByte_dFlags (x : Byte) (s : State) : (storeByte x s).dFlags = s.dFlags := rfl
@[simp] theorem storeByte_mIn (x : Byte) (s : State) : (storeByte x s).mIn = s.mIn := rfl
@[simp] theorem storeByte_cmpOut (x : Byte) (s : State) : (storeByte x s).cmpOut = s.cmpOut := rfl
@[simp] theorem storeByte_pending (x : Byte) (s : State) : (storeByte x s).pending = s.pending := rfl
@[simp] theorem storeByte_returned (x : Byte) (s : State) : (storeByte x s).returned = s.returned := rfl

/-! ### `returnWord` -/

@[simp] theorem returnWord_ready (v : Word) (s : State) : (returnWord v s).ready = s.ready := rfl
@[simp] theorem returnWord_err (v : Word) (s : State) : (returnWord v s).err = s.err := rfl
@[simp] theorem returnWord_fault (v : Word) (s : State) : (returnWord v s).fault = s.fault := rfl
@[simp] theorem returnWord_outValid (v : Word) (s : State) : (returnWord v s).outValid = s.outValid := rfl
@[simp] theorem returnWord_errcode (v : Word) (s : State) : (returnWord v s).errcode = s.errcode := rfl
@[simp] theorem returnWord_errCmd (v : Word) (s : State) : (returnWord v s).errCmd = s.errCmd := rfl
@[simp] theorem returnWord_mode (v : Word) (s : State) : (returnWord v s).mode = s.mode := rfl
@[simp] theorem returnWord_keyCv (v : Word) (s : State) : (returnWord v s).keyCv = s.keyCv := rfl
@[simp] theorem returnWord_chunkCv (v : Word) (s : State) : (returnWord v s).chunkCv = s.chunkCv := rfl
@[simp] theorem returnWord_block (v : Word) (s : State) : (returnWord v s).block = s.block := rfl
@[simp] theorem returnWord_blockLen (v : Word) (s : State) : (returnWord v s).blockLen = s.blockLen := rfl
@[simp] theorem returnWord_blocksDone (v : Word) (s : State) : (returnWord v s).blocksDone = s.blocksDone := rfl
@[simp] theorem returnWord_chunkCtr (v : Word) (s : State) : (returnWord v s).chunkCtr = s.chunkCtr := rfl
@[simp] theorem returnWord_stack (v : Word) (s : State) : (returnWord v s).stack = s.stack := rfl
@[simp] theorem returnWord_onode (v : Word) (s : State) : (returnWord v s).onode = s.onode := rfl
@[simp] theorem returnWord_outCtr (v : Word) (s : State) : (returnWord v s).outCtr = s.outCtr := rfl
@[simp] theorem returnWord_key (v : Word) (s : State) : (returnWord v s).key = s.key := rfl
@[simp] theorem returnWord_din (v : Word) (s : State) : (returnWord v s).din = s.din := rfl
@[simp] theorem returnWord_dout (v : Word) (s : State) : (returnWord v s).dout = s.dout := rfl
@[simp] theorem returnWord_cvIn (v : Word) (s : State) : (returnWord v s).cvIn = s.cvIn := rfl
@[simp] theorem returnWord_tLo (v : Word) (s : State) : (returnWord v s).tLo = s.tLo := rfl
@[simp] theorem returnWord_tHi (v : Word) (s : State) : (returnWord v s).tHi = s.tHi := rfl
@[simp] theorem returnWord_bLen (v : Word) (s : State) : (returnWord v s).bLen = s.bLen := rfl
@[simp] theorem returnWord_dFlags (v : Word) (s : State) : (returnWord v s).dFlags = s.dFlags := rfl
@[simp] theorem returnWord_mIn (v : Word) (s : State) : (returnWord v s).mIn = s.mIn := rfl
@[simp] theorem returnWord_cmpOut (v : Word) (s : State) : (returnWord v s).cmpOut = s.cmpOut := rfl
@[simp] theorem returnWord_pending (v : Word) (s : State) : (returnWord v s).pending = s.pending := rfl
@[simp] theorem returnWord_returned (v : Word) (s : State) : (returnWord v s).returned = s.returned ++ [v] := rfl

/-! ### `resetAction` (R260): every field but the host's two is that of the reset state -/

@[simp] theorem resetAction_ready (s : State) : (resetAction s).ready = State.reset.ready := rfl
@[simp] theorem resetAction_err (s : State) : (resetAction s).err = State.reset.err := rfl
@[simp] theorem resetAction_fault (s : State) : (resetAction s).fault = State.reset.fault := rfl
@[simp] theorem resetAction_outValid (s : State) : (resetAction s).outValid = State.reset.outValid := rfl
@[simp] theorem resetAction_errcode (s : State) : (resetAction s).errcode = State.reset.errcode := rfl
@[simp] theorem resetAction_errCmd (s : State) : (resetAction s).errCmd = State.reset.errCmd := rfl
@[simp] theorem resetAction_mode (s : State) : (resetAction s).mode = State.reset.mode := rfl
@[simp] theorem resetAction_keyCv (s : State) : (resetAction s).keyCv = State.reset.keyCv := rfl
@[simp] theorem resetAction_chunkCv (s : State) : (resetAction s).chunkCv = State.reset.chunkCv := rfl
@[simp] theorem resetAction_block (s : State) : (resetAction s).block = State.reset.block := rfl
@[simp] theorem resetAction_blockLen (s : State) : (resetAction s).blockLen = State.reset.blockLen := rfl
@[simp] theorem resetAction_blocksDone (s : State) : (resetAction s).blocksDone = State.reset.blocksDone := rfl
@[simp] theorem resetAction_chunkCtr (s : State) : (resetAction s).chunkCtr = State.reset.chunkCtr := rfl
@[simp] theorem resetAction_stack (s : State) : (resetAction s).stack = State.reset.stack := rfl
@[simp] theorem resetAction_onode (s : State) : (resetAction s).onode = State.reset.onode := rfl
@[simp] theorem resetAction_outCtr (s : State) : (resetAction s).outCtr = State.reset.outCtr := rfl
@[simp] theorem resetAction_key (s : State) : (resetAction s).key = State.reset.key := rfl
@[simp] theorem resetAction_din (s : State) : (resetAction s).din = State.reset.din := rfl
@[simp] theorem resetAction_dout (s : State) : (resetAction s).dout = State.reset.dout := rfl
@[simp] theorem resetAction_cvIn (s : State) : (resetAction s).cvIn = State.reset.cvIn := rfl
@[simp] theorem resetAction_tLo (s : State) : (resetAction s).tLo = State.reset.tLo := rfl
@[simp] theorem resetAction_tHi (s : State) : (resetAction s).tHi = State.reset.tHi := rfl
@[simp] theorem resetAction_bLen (s : State) : (resetAction s).bLen = State.reset.bLen := rfl
@[simp] theorem resetAction_dFlags (s : State) : (resetAction s).dFlags = State.reset.dFlags := rfl
@[simp] theorem resetAction_mIn (s : State) : (resetAction s).mIn = State.reset.mIn := rfl
@[simp] theorem resetAction_cmpOut (s : State) : (resetAction s).cmpOut = State.reset.cmpOut := rfl
@[simp] theorem resetAction_pending (s : State) : (resetAction s).pending = s.pending := rfl
@[simp] theorem resetAction_returned (s : State) : (resetAction s).returned = s.returned := rfl

end Sys2Proof.Machine
end

