-- ==== Sys2Proof/Laws/Exec.lean ====
section
/-! SUPPORT. What each shared operation and each command can do, said once: if it answers a next state, that state is one of these.
Later proofs cite these lemmas instead of unfolding the meanings. -/

namespace Sys2Proof.Machine

/-! ### The fault stop and the error record -/

theorem unlessFaulted_of_fault {s : State} (h : s.fault = true) (r : Result) : unlessFaulted s r = .next s := by
  simp [unlessFaulted, h]

theorem unlessFaulted_of_running {s : State} (h : s.fault = false) (r : Result) : unlessFaulted s r = r := by
  simp [unlessFaulted, h]

/-- A guarded command that goes on either was ignored or ran. -/
theorem unlessFaulted_next {s t : State} {r : Result} (h : unlessFaulted s r = .next t) :
    (s.fault = true ∧ t = s) ∨ (s.fault = false ∧ r = .next t) := by
  cases hf : s.fault <;> simp [unlessFaulted, hf] at h
  · exact .inr ⟨rfl, h⟩
  · exact .inl ⟨rfl, h.symm⟩

theorem recordError_of_err {s : State} (h : s.err = true) (e : ErrCode) (c : Word) : recordError e c s = s := by
  simp [recordError, h]

theorem recordError_of_clear {s : State} (h : s.err = false) (e : ErrCode) (c : Word) :
    recordError e c s = { s with err := true, errcode := e, errCmd := c } := by
  simp [recordError, h]

/-! ### The merge stack -/

theorem mergeLoop_odd (key : Cv) (mode : Mode) (st : List Cv) {total : Counter} (h : total[0] = true) (ccv : Cv) :
    mergeLoop key mode st total ccv = some (ccv :: st) := by
  cases st <;> simp [mergeLoop, h]

theorem mergeLoop_even_nil (key : Cv) (mode : Mode) {total : Counter} (h : total[0] = false) (ccv : Cv) :
    mergeLoop key mode [] total ccv = none := by
  simp [mergeLoop, h]

theorem mergeLoop_even_cons (key : Cv) (mode : Mode) (left : Cv) (rest : List Cv) {total : Counter} (h : total[0] = false)
    (ccv : Cv) :
    mergeLoop key mode (left :: rest) total ccv =
      mergeLoop key mode rest (total >>> 1) (chainingValue (parentNode key mode left ccv)) := by
  simp [mergeLoop, h]

/-- `merge` changes the stack and nothing else. -/
theorem merge_some {ccv : Cv} {total : Counter} {s s' : State} (h : merge ccv total s = some s') :
    ∃ st, mergeLoop s.keyCv s.mode s.stack.reverse total ccv = some st ∧ s' = { s with stack := st.reverse } := by
  unfold merge at h
  split at h
  · rename_i st hst
    exact ⟨st, hst, by simpa using h.symm⟩
  · exact absurd h (by simp)

/-! ### The chunk accumulator -/

/-- What a byte step of a chunk may change: the accumulator, the stack, and through the overflow fault the error record. -/
def AbsorbFrame (s t : State) : Prop :=
  t = { s with
    err := t.err, fault := t.fault, errcode := t.errcode, errCmd := t.errCmd, chunkCv := t.chunkCv, block := t.block,
    blockLen := t.blockLen, blocksDone := t.blocksDone, chunkCtr := t.chunkCtr, stack := t.stack }

theorem AbsorbFrame.refl (s : State) : AbsorbFrame s s := rfl

theorem AbsorbFrame.trans {s t u : State} (h : AbsorbFrame s t) (k : AbsorbFrame t u) : AbsorbFrame s u := by
  unfold AbsorbFrame at *
  rw [h] at k
  exact k

/-- R135's rotation either leaves a chunk that is not full, faults at the wrap of the count, or merges and begins the next chunk. -/
theorem rotateChunk_next {c : Word} {s t : State} (h : rotateChunk c s = .next t) :
    (chunkLen s ≠ 1024 ∧ t = s) ∨
    (chunkLen s = 1024 ∧ s.chunkCtr + 1 = 0 ∧ t = chunkOverflowFault c s) ∨
    (chunkLen s = 1024 ∧ s.chunkCtr + 1 ≠ 0 ∧
      ∃ s', merge (chainingValue (chunkNode s)) (s.chunkCtr + 1) s = some s' ∧ t = freshChunk (s.chunkCtr + 1) s') := by
  unfold rotateChunk at h
  split at h
  · rename_i hfull
    split at h
    · exact .inr (.inl ⟨hfull, ‹_›, by simpa using h.symm⟩)
    · split at h
      · exact .inr (.inr ⟨hfull, ‹_›, _, ‹_›, by simpa using h.symm⟩)
      · exact absurd h (by simp)
  · exact .inl ⟨‹_›, by simpa using h.symm⟩

theorem chunkOverflowFault_frame (c : Word) (s : State) : AbsorbFrame s (chunkOverflowFault c s) := by
  unfold AbsorbFrame chunkOverflowFault recordError
  split <;> rfl

theorem rotateChunk_frame {c : Word} {s t : State} (h : rotateChunk c s = .next t) : AbsorbFrame s t := by
  rcases rotateChunk_next h with ⟨-, rfl⟩ | ⟨-, -, rfl⟩ | ⟨-, -, s', hm, rfl⟩
  · exact .refl t
  · exact chunkOverflowFault_frame c s
  · obtain ⟨st, -, rfl⟩ := merge_some hm
    rfl

theorem bufferByte_frame (x : Byte) (s : State) : AbsorbFrame s (bufferByte x s) := by
  unfold AbsorbFrame bufferByte
  split <;> rfl

@[simp] theorem bufferByte_fault (x : Byte) (s : State) : (bufferByte x s).fault = s.fault := by
  unfold bufferByte; split <;> rfl

/-- One byte (R135): rotation, and then, unless it faulted, the byte into the block buffer. -/
theorem absorbByte_next {c : Word} {x : Byte} {s t : State} (h : absorbByte c x s = .next t) :
    ∃ s', rotateChunk c s = .next s' ∧ t = if s'.fault then s' else bufferByte x s' := by
  unfold absorbByte at h
  split at h
  · rename_i s' hs'
    refine ⟨s', hs', ?_⟩
    split at h <;> simp_all
  · exact absurd h (by simp)
  · exact absurd h (by simp)

theorem absorbByte_frame {c : Word} {x : Byte} {s t : State} (h : absorbByte c x s = .next t) : AbsorbFrame s t := by
  obtain ⟨s', hs', rfl⟩ := absorbByte_next h
  split
  · exact rotateChunk_frame hs'
  · exact (rotateChunk_frame hs').trans (bufferByte_frame x s')

/-- The byte loop of `ABSORB` on one more byte (R140). -/
theorem absorbBytes_cons_next {c : Word} {x : Byte} {xs : List Byte} {s t : State}
    (h : absorbBytes c (x :: xs) s = .next t) :
    ∃ s', absorbByte c x s = .next s' ∧
      ((s'.fault = true ∧ t = s') ∨ (s'.fault = false ∧ absorbBytes c xs s' = .next t)) := by
  unfold absorbBytes at h
  split at h
  · rename_i s' hs'
    refine ⟨s', hs', ?_⟩
    cases hf : s'.fault <;> simp [hf] at h
    · exact .inr ⟨rfl, h⟩
    · exact .inl ⟨rfl, h.symm⟩
  · exact absurd h (by simp)
  · exact absurd h (by simp)

theorem absorbBytes_frame {c : Word} {bs : List Byte} {s t : State} (h : absorbBytes c bs s = .next t) :
    AbsorbFrame s t := by
  induction bs generalizing s with
  | nil => simp only [absorbBytes, Host.Outcome.next.injEq] at h; exact h ▸ .refl s
  | cons x xs ih =>
    obtain ⟨s', hs', ⟨-, rfl⟩ | ⟨-, hrest⟩⟩ := absorbBytes_cons_next h
    · exact absorbByte_frame hs'
    · exact (absorbByte_frame hs').trans (ih hrest)

/-! ### The commands: what a next state can be -/

/-- `ABSORB` was ignored, was rejected, or absorbed its bytes in order (R140). -/
theorem execAbsorb_next {n : Nat} {s t : State} (h : execAbsorb n s = .next t) :
    (s.fault = true ∧ t = s) ∨
    (s.fault = false ∧ s.ready = false ∧ t = recordError .notInitialized (encode (.absorb n)) s) ∨
    (s.fault = false ∧ s.ready = true ∧ 64 < n ∧ t = recordError .badLength (encode (.absorb n)) s) ∨
    (s.fault = false ∧ s.ready = true ∧ n ≤ 64 ∧
      absorbBytes (encode (.absorb n)) (absorbOperand n s) { s with outValid := false } = .next t) := by
  rcases unlessFaulted_next h with ⟨hf, rfl⟩ | ⟨hf, h⟩
  · exact .inl ⟨hf, rfl⟩
  · cases hr : s.ready
    · simp only [hr, ↓reduceIte, raiseError, Host.Outcome.next.injEq] at h
      exact .inr (.inl ⟨hf, rfl, h.symm⟩)
    · simp only [hr, Bool.true_eq_false, ↓reduceIte, Config.absorbMax] at h
      split at h
      · simp only [raiseError, Host.Outcome.next.injEq] at h
        exact .inr (.inr (.inl ⟨hf, rfl, ‹_›, h.symm⟩))
      · exact .inr (.inr (.inr ⟨hf, rfl, by omega, h⟩))

/-- `INIT_KEYED` was ignored, was rejected, or began a keyed hasher (R188). -/
theorem execInitKeyed_next {a : Nat} {s t : State} (h : execInitKeyed a s = .next t) :
    (s.fault = true ∧ t = s) ∨
    (s.fault = false ∧ a ≠ 32 ∧ t = recordError .invalidKeyLength (encode (.initKeyed a)) s) ∨
    (s.fault = false ∧ a = 32 ∧ t = hasherInit s.key .keyed s) := by
  rcases unlessFaulted_next h with ⟨hf, rfl⟩ | ⟨hf, h⟩
  · exact .inl ⟨hf, rfl⟩
  · by_cases ha : a = 32
    · simp only [Config.keyLen, ha, ne_eq, not_true_eq_false, ↓reduceIte, Host.Outcome.next.injEq] at h
      exact .inr (.inr ⟨hf, ha, h.symm⟩)
    · simp only [Config.keyLen, ne_eq, ha, not_false_eq_true, ↓reduceIte, raiseError, Host.Outcome.next.injEq] at h
      exact .inr (.inl ⟨hf, ha, h.symm⟩)

/-- `INIT_DERIVE_MATERIAL` was ignored, was rejected, or began the material phase (R192). -/
theorem execInitDeriveMaterial_next {s t : State} (h : execInitDeriveMaterial s = .next t) :
    (s.fault = true ∧ t = s) ∨
    (s.fault = false ∧ s.ready = false ∧ t = recordError .notInitialized (encode .initDeriveMaterial) s) ∨
    (s.fault = false ∧ s.ready = true ∧ s.mode ≠ .deriveContext ∧
      t = recordError .wrongMode (encode .initDeriveMaterial) s) ∨
    (s.fault = false ∧ s.ready = true ∧ s.mode = .deriveContext ∧
      t = hasherInit (contextKey s) .deriveMaterial s) := by
  rcases unlessFaulted_next h with ⟨hf, rfl⟩ | ⟨hf, h⟩
  · exact .inl ⟨hf, rfl⟩
  · cases hr : s.ready
    · simp only [hr, ↓reduceIte, raiseError, Host.Outcome.next.injEq] at h
      exact .inr (.inl ⟨hf, rfl, h.symm⟩)
    · simp only [hr, Bool.true_eq_false, ↓reduceIte] at h
      split at h
      · simp only [raiseError, Host.Outcome.next.injEq] at h
        exact .inr (.inr (.inl ⟨hf, rfl, ‹_›, h.symm⟩))
      · rename_i hm
        simp only [Host.Outcome.next.injEq] at h
        exact .inr (.inr (.inr ⟨hf, rfl, by simpa using hm, h.symm⟩))

/-- `FINALIZE` was ignored, was rejected, or captured the root (R210). -/
theorem execFinalize_next {s t : State} (h : execFinalize s = .next t) :
    (s.fault = true ∧ t = s) ∨
    (s.fault = false ∧ s.ready = false ∧ t = recordError .notInitialized (encode .finalize) s) ∨
    (s.fault = false ∧ s.ready = true ∧
      t = { s with onode := captureRoot (rootNode s), outCtr := 0, outValid := true }) := by
  rcases unlessFaulted_next h with ⟨hf, rfl⟩ | ⟨hf, h⟩
  · exact .inl ⟨hf, rfl⟩
  · cases hr : s.ready
    · simp only [hr, ↓reduceIte, raiseError, Host.Outcome.next.injEq] at h
      exact .inr (.inl ⟨hf, rfl, h.symm⟩)
    · simp only [hr, Bool.true_eq_false, ↓reduceIte, Host.Outcome.next.injEq] at h
      exact .inr (.inr ⟨hf, rfl, h ▸ rfl⟩)

/-- `SQUEEZE` was ignored, was rejected, or produced an output block (R212). -/
theorem execSqueeze_next {s t : State} (h : execSqueeze s = .next t) :
    (s.fault = true ∧ t = s) ∨
    (s.fault = false ∧ s.ready = false ∧ t = recordError .notInitialized (encode .squeeze) s) ∨
    (s.fault = false ∧ s.ready = true ∧ s.outValid = false ∧ t = recordError .noOutput (encode .squeeze) s) ∨
    (s.fault = false ∧ s.ready = true ∧ s.outValid = true ∧
      t = { s with dout := outputBlock s.onode s.outCtr, outCtr := s.outCtr + 1 }) := by
  rcases unlessFaulted_next h with ⟨hf, rfl⟩ | ⟨hf, h⟩
  · exact .inl ⟨hf, rfl⟩
  · cases hr : s.ready
    · simp only [hr, ↓reduceIte, raiseError, Host.Outcome.next.injEq] at h
      exact .inr (.inl ⟨hf, rfl, h.symm⟩)
    · cases hv : s.outValid
      · simp only [hr, hv, Bool.true_eq_false, ↓reduceIte, raiseError, Host.Outcome.next.injEq] at h
        exact .inr (.inr (.inl ⟨hf, rfl, rfl, h.symm⟩))
      · simp only [hr, hv, Bool.true_eq_false, ↓reduceIte, Host.Outcome.next.injEq] at h
        exact .inr (.inr (.inr ⟨hf, rfl, rfl, h.symm⟩))

/-- `COMPRESS` was ignored or wrote its result (R115). -/
theorem execCompress_next {s t : State} (h : execCompress s = .next t) :
    (s.fault = true ∧ t = s) ∨
    (s.fault = false ∧ t = { s with
      cmpOut := compress s.cvIn s.mIn (counterOperand s) (blockLenOperand s) (flagsOperand s) }) := by
  rcases unlessFaulted_next h with ⟨hf, rfl⟩ | ⟨hf, h⟩
  · exact .inl ⟨hf, rfl⟩
  · simp only [Host.Outcome.next.injEq] at h
    exact .inr ⟨hf, h.symm⟩

/-! ### All commands at once -/

/-- The checks of R239: command `i` is rejected in `s` with error `e`. -/
def Rejects : Instr → State → ErrCode → Prop
  | .initKeyed a, _, e => a ≠ 32 ∧ e = .invalidKeyLength
  | .initDeriveMaterial, s, e =>
    (s.ready = false ∧ e = .notInitialized) ∨ (s.ready = true ∧ s.mode ≠ .deriveContext ∧ e = .wrongMode)
  | .absorb n, s, e =>
    (s.ready = false ∧ e = .notInitialized) ∨ (s.ready = true ∧ 64 < n ∧ e = .badLength)
  | .finalize, s, e => s.ready = false ∧ e = .notInitialized
  | .squeeze, s, e =>
    (s.ready = false ∧ e = .notInitialized) ∨ (s.ready = true ∧ s.outValid = false ∧ e = .noOutput)
  | .nop, _, _ => False
  | .reset, _, _ => False
  | .initHash, _, _ => False
  | .initDeriveContext, _, _ => False
  | .compress, _, _ => False
  | .clearErr, _, _ => False

/-- The seeds and modes of R185: command `i` begins a hasher of seed `k` and mode `m` in `s`. -/
def Inits : Instr → State → Cv → Mode → Prop
  | .initHash, _, k, m => k = iv ∧ m = .plain
  | .initKeyed a, s, k, m => a = 32 ∧ k = s.key ∧ m = .keyed
  | .initDeriveContext, _, k, m => k = iv ∧ m = .deriveContext
  | .initDeriveMaterial, s, k, m =>
    s.ready = true ∧ s.mode = .deriveContext ∧ k = contextKey s ∧ m = .deriveMaterial
  | .nop, _, _, _ => False
  | .reset, _, _, _ => False
  | .absorb _, _, _, _ => False
  | .finalize, _, _, _ => False
  | .squeeze, _, _, _ => False
  | .compress, _, _, _ => False
  | .clearErr, _, _, _ => False

/-- What a command can do: the next states of `exec`, by what happened. -/
inductive ExecStep (s : State) : Instr → State → Prop
  /-- R241: ignored while `S.fault = 1`. -/
  | ignored {i : Instr} : i ≠ .reset → s.fault = true → ExecStep s i s
  /-- R181. -/
  | reset : ExecStep s .reset (resetAction s)
  /-- R240: rejected, only the record changed. -/
  | rejected {i : Instr} {e : ErrCode} : s.fault = false → Rejects i s e → ExecStep s i (recordError e (encode i) s)
  /-- R180. -/
  | nop : s.fault = false → ExecStep s .nop s
  /-- R182: a hasher begun. -/
  | inited {i : Instr} {k : Cv} {m : Mode} : s.fault = false → Inits i s k m → ExecStep s i (hasherInit k m s)
  /-- R140: bytes absorbed. -/
  | absorbed {n : Nat} {t : State} : s.fault = false → s.ready = true → n ≤ 64 →
      absorbBytes (encode (.absorb n)) (absorbOperand n s) { s with outValid := false } = .next t →
      ExecStep s (.absorb n) t
  /-- R210. -/
  | finalized : s.fault = false → s.ready = true →
      ExecStep s .finalize { s with onode := captureRoot (rootNode s), outCtr := 0, outValid := true }
  /-- R212. -/
  | squeezed : s.fault = false → s.ready = true → s.outValid = true →
      ExecStep s .squeeze { s with dout := outputBlock s.onode s.outCtr, outCtr := s.outCtr + 1 }
  /-- R115. -/
  | compressed : s.fault = false → ExecStep s .compress { s with
      cmpOut := compress s.cvIn s.mIn (counterOperand s) (blockLenOperand s) (flagsOperand s) }
  /-- R195. -/
  | cleared : s.fault = false → ExecStep s .clearErr (clearRecord s)

/-- Every next state of `exec` is one of `ExecStep`'s. -/
theorem exec_next {i : Instr} {s t : State} (h : exec i s = .next t) : ExecStep s i t := by
  cases i with
  | nop =>
    rcases unlessFaulted_next h with ⟨hf, rfl⟩ | ⟨hf, h⟩
    · exact .ignored (by simp) hf
    · simp only [Host.Outcome.next.injEq] at h; exact h ▸ .nop hf
  | reset =>
    simp only [exec, execReset, Host.Outcome.next.injEq] at h
    exact h ▸ .reset
  | initHash =>
    rcases unlessFaulted_next h with ⟨hf, rfl⟩ | ⟨hf, h⟩
    · exact .ignored (by simp) hf
    · simp only [Host.Outcome.next.injEq] at h; exact h ▸ .inited hf ⟨rfl, rfl⟩
  | initKeyed a =>
    rcases execInitKeyed_next h with ⟨hf, rfl⟩ | ⟨hf, ha, rfl⟩ | ⟨hf, rfl, rfl⟩
    · exact .ignored (by simp) hf
    · exact .rejected hf ⟨ha, rfl⟩
    · exact .inited hf ⟨rfl, rfl, rfl⟩
  | initDeriveContext =>
    rcases unlessFaulted_next h with ⟨hf, rfl⟩ | ⟨hf, h⟩
    · exact .ignored (by simp) hf
    · simp only [Host.Outcome.next.injEq] at h; exact h ▸ .inited hf ⟨rfl, rfl⟩
  | initDeriveMaterial =>
    rcases execInitDeriveMaterial_next h with ⟨hf, rfl⟩ | ⟨hf, hr, rfl⟩ | ⟨hf, hr, hm, rfl⟩ | ⟨hf, hr, hm, rfl⟩
    · exact .ignored (by simp) hf
    · exact .rejected hf (.inl ⟨hr, rfl⟩)
    · exact .rejected hf (.inr ⟨hr, hm, rfl⟩)
    · exact .inited hf ⟨hr, hm, rfl, rfl⟩
  | absorb n =>
    rcases execAbsorb_next h with ⟨hf, rfl⟩ | ⟨hf, hr, rfl⟩ | ⟨hf, hr, hn, rfl⟩ | ⟨hf, hr, hn, h⟩
    · exact .ignored (by simp) hf
    · exact .rejected hf (.inl ⟨hr, rfl⟩)
    · exact .rejected hf (.inr ⟨hr, hn, rfl⟩)
    · exact .absorbed hf hr hn h
  | finalize =>
    rcases execFinalize_next h with ⟨hf, rfl⟩ | ⟨hf, hr, rfl⟩ | ⟨hf, hr, rfl⟩
    · exact .ignored (by simp) hf
    · exact .rejected hf ⟨hr, rfl⟩
    · exact .finalized hf hr
  | squeeze =>
    rcases execSqueeze_next h with ⟨hf, rfl⟩ | ⟨hf, hr, rfl⟩ | ⟨hf, hr, hv, rfl⟩ | ⟨hf, hr, hv, rfl⟩
    · exact .ignored (by simp) hf
    · exact .rejected hf (.inl ⟨hr, rfl⟩)
    · exact .rejected hf (.inr ⟨hr, hv, rfl⟩)
    · exact .squeezed hf hr hv
  | compress =>
    rcases execCompress_next h with ⟨hf, rfl⟩ | ⟨hf, rfl⟩
    · exact .ignored (by simp) hf
    · exact .compressed hf
  | clearErr =>
    rcases unlessFaulted_next h with ⟨hf, rfl⟩ | ⟨hf, h⟩
    · exact .ignored (by simp) hf
    · simp only [Host.Outcome.next.injEq] at h; exact h ▸ .cleared hf

/-! ### The host port and the step -/

/-- A step with an access waiting serves it with that access removed (R67). -/
theorem step_cons {s : State} {e : HostEvent} {rest : List HostEvent} (h : s.pending = e :: rest) :
    step s = serve e { s with pending := rest } := by
  simp [step, h]

/-- A step with nothing waiting changes nothing (R16). -/
theorem step_nil {s : State} (h : s.pending = []) : step s = .next s := by
  simp [step, h]

/-- A read that goes on returned the register's value and changed nothing else (R68). -/
theorem hostRead_next {bits : Nat} {o : Offset} {s t : State} (h : hostRead bits o s = .next t) :
    ∃ r v, accessReg bits o = some r ∧ readReg r s = some v ∧ t = returnWord v s := by
  unfold hostRead at h
  split at h
  · exact absurd h (by simp)
  · split at h
    · exact ⟨_, _, ‹_›, ‹_›, by simpa using h.symm⟩
    · exact absurd h (by simp)

/-- A write that goes on stored to an `RW` register or ran a command (R68). -/
theorem hostWrite_next {bits : Nat} {o : Offset} {v : Word} {s t : State} (h : hostWrite bits o v s = .next t) :
    ∃ r, accessReg bits o = some r ∧
      ((accessOf r = .rw ∧ t = writeReg r v s) ∨ (accessOf r = .wo ∧ executeWord v s = .next t)) := by
  unfold hostWrite at h
  split at h
  · exact absurd h (by simp)
  · rename_i r hr
    refine ⟨r, hr, ?_⟩
    split at h
    · exact absurd h (by simp)
    · exact .inl ⟨‹_›, by simpa using h.symm⟩
    · exact .inr ⟨‹_›, h⟩

/-- A word that is executed is illegal, or is the command it decodes to (R242). -/
theorem executeWord_eq (c : Word) (s : State) :
    (∃ e, decode c = .error e ∧ executeWord c s = illegalCommand c s) ∨
    (∃ i, decode c = .ok i ∧ executeWord c s = exec i s) := by
  unfold executeWord
  cases h : decode c with
  | error e => exact .inl ⟨e, rfl, rfl⟩
  | ok i => exact .inr ⟨i, rfl, rfl⟩

end Sys2Proof.Machine
end

