-- ==== Sys2Proof/Laws/Words.lean ====
section
/-! SUPPORT. Small lemmas about the helpers: vectors built word by word, the fields of an encoded word, the compression unit's loop. -/

namespace Sys2Proof

/-- The bits of `encode i` below 16 hold the opcode and the low 8 bits of the argument. -/
theorem encode_toNat (i : Instr) : (encode i).toNat = opcodeOf i + 256 * (argOf i % 256) := by
  have h : opcodeOf i < 256 := by cases i <;> simp [opcodeOf]
  unfold encode
  rw [BitVec.toNat_ofNat, Nat.mod_eq_of_lt]
  omega

theorem opcodeOf_lt (i : Instr) : opcodeOf i < 11 := by cases i <;> simp [opcodeOf]

theorem opcodeField_eq (c : Word) : opcodeField c = c.toNat % 256 := by
  simp [opcodeField, BitVec.extractLsb'_toNat]

theorem argField_eq (c : Word) : argField c = c.toNat / 256 % 256 := by
  simp [argField, BitVec.extractLsb'_toNat, Nat.shiftRight_eq_div_pow]

theorem rsvField_eq (c : Word) : rsvField c = c.toNat / 65536 := by
  have h := c.isLt
  simp only [rsvField, BitVec.extractLsb'_toNat, Nat.shiftRight_eq_div_pow]
  omega

theorem opcodeField_encode (i : Instr) : opcodeField (encode i) = opcodeOf i := by
  have h := opcodeOf_lt i
  rw [opcodeField_eq, encode_toNat]; omega

theorem argField_encode (i : Instr) : argField (encode i) = argOf i % 256 := by
  have h := opcodeOf_lt i
  rw [argField_eq, encode_toNat]; omega

theorem rsvField_encode (i : Instr) : rsvField (encode i) = 0 := by
  have h := opcodeOf_lt i
  rw [rsvField_eq, encode_toNat]; omega

/-- An opcode and argument that decode give a command of that opcode and argument. -/
theorem decodeOpcode_ok {op arg : Nat} {i : Instr} (h : decodeOpcode op arg = .ok i) :
    opcodeOf i = op ∧ argOf i = arg := by
  unfold decodeOpcode noArg at h
  split at h <;> (try split at h) <;> simp_all <;> (subst h; simp_all [opcodeOf, argOf])

/-- What a decoded word's fields are. -/
theorem decode_ok {c : Word} {i : Instr} (h : decode c = .ok i) :
    rsvField c = 0 ∧ opcodeOf i = opcodeField c ∧ argOf i = argField c := by
  unfold decode at h
  split at h
  · exact absurd h (by simp)
  · rename_i hr
    exact ⟨by simpa using hr, decodeOpcode_ok h⟩

/-- Decoding answers for every word. -/
theorem decode_total (c : Word) : (∃ e, decode c = .error e) ∨ ∃ i, decode c = .ok i := by
  cases h : decode c with
  | error e => exact .inl ⟨e, rfl⟩
  | ok i => exact .inr ⟨i, rfl⟩

namespace Machine

theorem wordsLe_get (bs : List Byte) (i : Nat) (h : i < 16) : (wordsLe bs)[i] = leWordAt bs i := by
  simp [wordsLe]

theorem permute_get (m : Words16) (i : Nat) (h : i < 16) : (permute m)[i] = m[perm[i]] := by
  simp [permute]

theorem cvOf_get (w : Words16) (i : Nat) (h : i < 8) : (cvOf w)[i] = w[i] := by
  simp [cvOf]

/-- A word of two chaining values side by side: a parent's block words (R162), the initial state of a compression (R111). -/
theorem appendCv_get (a b : Cv) (i : Nat) (h : i < 16) :
    (a ++ b : Words16)[i] = if _h : i < 8 then a[i] else b[i - 8] :=
  Vector.getElem_append (xs := a) (ys := b) h

theorem rounds_succ_succ (n : Nat) (v m : Words16) : rounds (n + 2) v m = rounds (n + 1) (mixRound v m) (permute m) := rfl

theorem feedForward_low (v : Words16) (cv : Cv) (i : Nat) (h : i < 8) : (feedForward v cv)[i] = v[i] ^^^ v[i + 8] := by
  simp [feedForward, h]

theorem feedForward_high (v : Words16) (cv : Cv) (i : Nat) (h : i < 8) :
    (feedForward v cv)[i + 8] = v[i + 8] ^^^ cv[i] := by
  simp [feedForward]

end Machine
end Sys2Proof
end

