-- ==== Sys2Proof/Laws/PerInstr.lean ====
section
/-! SUPPORT. The per-instruction family `Encoded`: every command's word agrees with the match and mask columns of 30_encoding.md R86. -/

namespace Sys2Proof.Laws.Encoded

/-- R86: the word of the command under its mask is its match value. -/
def Statement (i : Instr) : Prop := encode i &&& maskOf i = matchOf i

theorem nop : Statement .nop := by unfold Statement; decide

theorem reset : Statement .reset := by unfold Statement; decide

theorem initHash : Statement .initHash := by unfold Statement; decide

theorem initDeriveContext : Statement .initDeriveContext := by unfold Statement; decide

theorem initDeriveMaterial : Statement .initDeriveMaterial := by unfold Statement; decide

theorem finalize : Statement .finalize := by unfold Statement; decide

theorem squeeze : Statement .squeeze := by unfold Statement; decide

theorem compress : Statement .compress := by unfold Statement; decide

theorem clearErr : Statement .clearErr := by unfold Statement; decide

/-- The argument field does not reach the bits the mask keeps. -/
theorem masked_keyed : ∀ a : Fin 256, BitVec.ofNat 32 (3 + 256 * a.val) &&& 0xFFFF00FF = BitVec.ofNat 32 3 := by
  decide +kernel

theorem masked_absorb : ∀ n : Fin 256, BitVec.ofNat 32 (6 + 256 * n.val) &&& 0xFFFF00FF = BitVec.ofNat 32 6 := by
  decide +kernel

theorem initKeyed (a : Nat) : Statement (.initKeyed a) :=
  masked_keyed ⟨a % 256, Nat.mod_lt _ (by decide)⟩

theorem absorb (n : Nat) : Statement (.absorb n) :=
  masked_absorb ⟨n % 256, Nat.mod_lt _ (by decide)⟩

end Sys2Proof.Laws.Encoded
end

