-- ==== Sys2Proof/Machine/HostProgram.lean ====
section
/-! DEFINITION. The host program notation (30_encoding.md R91 to R96): each statement and pseudo-instruction as the host events it
expands to, and the digest the host keeps of the words it reads (44_output.md R217). Host control flow is the host's own (R92). -/

namespace Sys2Proof.Machine

/-- R91: `WR REG, v`. -/
def wr (r : Reg) (v : Word) : HostEvent := .write 32 (regOffset r) v

/-- R91: `RD REG`. -/
def rd (r : Reg) : HostEvent := .read 32 (regOffset r)

/-- R91: `CMD MNEMONIC [a]`. -/
def cmd (i : Instr) : HostEvent := wr .cmd (encode i)

/-- R93: `LOAD_DIN bs`, for `k in 0..ceil(len(bs)/4)`. -/
def loadDin (bs : List Byte) : List HostEvent :=
  (List.range ((bs.length + 3) / 4)).map fun k => wr (.din (Fin.ofNat 16 k)) (leWordAt bs k)

/-- R94: `LOAD_KEY key`. -/
def loadKey (key : List Byte) : List HostEvent :=
  (List.range 8).map fun k => wr (.key (Fin.ofNat 8 k)) (leWordAt key k)

/-- R95: `LOAD_CMP cv, m, t, b, d`. -/
def loadCmp (cv : Cv) (m : Words16) (t : Counter) (b d : Word) : List HostEvent :=
  (List.finRange 8).map (fun k => wr (.cvIn k) cv[k]) ++ (List.finRange 16).map (fun k => wr (.mIn k) m[k]) ++
    [wr .tLo (low32 t), wr .tHi (high32 t), wr .bLen b, wr .dFlags d]

/-- R96: `NEW_HASHER`. -/
def newHasher : List HostEvent := [cmd .initHash]

/-- R96: `NEW_KEYED_HASHER key`; the host passes the real length. DESIGN CHOICE (log entry 13): a length above 255, which `ARG` cannot
hold, is passed as 255, and so is rejected as the real one must be (R234). -/
def newKeyedHasher (key : List Byte) : List HostEvent := loadKey key ++ [cmd (.initKeyed (min key.length 255))]

/-- One turn of R96's `UPDATE` loop: load at most 64 bytes and absorb them. -/
def updatePiece (bs : List Byte) : List HostEvent := loadDin bs ++ [cmd (.absorb bs.length)]

/-- R96: `UPDATE bs`, for `i = 0, 64, 128, ...` while `i < len(bs)`. -/
def update (bs : List Byte) : List HostEvent :=
  (List.range ((bs.length + 63) / 64)).flatMap fun j => updatePiece ((bs.drop (64 * j)).take 64)

/-- R96: `NEW_DERIVE_HASHER ctx`. -/
def newDeriveHasher (ctx : List Byte) : List HostEvent :=
  [cmd .initDeriveContext] ++ update ctx ++ [cmd .initDeriveMaterial]

/-- R96, R217: the output blocks a digest of `n` bytes takes, `ceil(n/64)`. -/
def digestBlocks (n : Nat) : Nat := (n + Config.outBlockLen - 1) / Config.outBlockLen

/-- R96: `DIGEST n`, `CMD FINALIZE` and then `ceil(n/64)` times `CMD SQUEEZE` and `RD DOUT0` to `RD DOUT15`; without a length, the
default of R7 (R217). -/
def digest (n : Nat := Config.defaultDigestLen) : List HostEvent :=
  [cmd .finalize] ++
    (List.replicate (digestBlocks n) ([cmd .squeeze] ++ (List.finRange 16).map fun k => rd (.dout k))).flatten

/-- R217: the digest is the first `n` bytes of `bytes_le` of the output words read; the words stand first so that the length may
be left to its default (R7). -/
def digestBytes (read : List Word) (n : Nat := Config.defaultDigestLen) : List Byte := (bytesLe read).take n

/-- The host about to issue a program's accesses after those it already has waiting. -/
def State.issue (s : State) (events : List HostEvent) : State := { s with pending := s.pending ++ events }

end Sys2Proof.Machine
end

