-- ==== Sys2Proof/Tests/Slice0.lean ====
section
/-! SUPPORT. Tests of the model: words written out from the encodings, single steps with results from the spec's worked examples and
vectors (95_test_vectors.md), and for every statement with hypotheses a concrete state and operands that meet them. -/

namespace Sys2Proof.Tests

open Sys2Proof Sys2Proof.Machine

/-! ### Small states -/

/-- A plain hasher just begun (R186). -/
def plain : State := hasherInit iv .plain State.reset

/-- The same with a hasher of mode 3 (R190). -/
def context : State := hasherInit iv .deriveContext State.reset

/-- A plain hasher of the empty input with its root captured. -/
def finalized : State :=
  { plain with onode := { cv := iv, m := Vector.replicate 16 0, b := 0, d := 0x03 }, outValid := true }

/-- A plain hasher with an error recorded: `INIT_KEYED 16` failed (R234). -/
def errored : State := { plain with err := true, errcode := .invalidKeyLength, errCmd := 0x00001003 }

/-- The state of R259 and V-FLT: the last chunk the count can number, full, with the 64 entries its index asks for. -/
def lastChunk : State :=
  { plain with
    chunkCtr := 0xFFFFFFFFFFFFFFFF, blocksDone := 15, blockLen := 64, stack := List.replicate 64 iv,
    din := plain.din.set 0 0x00000201 }

/-- The block after the overflow fault. -/
def faulted : State := { lastChunk with err := true, fault := true, errcode := .counterOverflow, errCmd := 0x00000206 }

/-- A full chunk 0, and a full block of a chunk that is not full. -/
def fullChunk : State := { plain with blocksDone := 15, blockLen := 64 }

/-- A full first block. -/
def fullBlock : State := { plain with blockLen := 64 }

/-- What a next state satisfies. -/
def After (r : Result) (p : State → Bool) : Bool :=
  match r with
  | .next s => p s
  | .fault _ => false
  | .refused _ => false

/-- What a register reads as after a next state. -/
def reads (r : Result) (q : Reg) (v : Word) : Bool := After r fun s => readReg q s == some v

/-! ### Well-formedness -/

theorem test_wf_refuses_key_length_256 : (Instr.initKeyed 256).wf = false := by decide

theorem test_wf_refuses_absorb_256 : (Instr.absorb 256).wf = false := by decide

theorem test_wf_takes_absorb_255 : (Instr.absorb 255).wf = true := by decide

/-! ### Decoding (R86, V-DEC): each word written out bit by bit, `RSV` then `ARG` then `OPCODE` -/

theorem test_decode_nop : decode 0b0000000000000000_00000000_00000000#32 = .ok .nop := by rfl

theorem test_decode_reset : decode 0b0000000000000000_00000000_00000001#32 = .ok .reset := by rfl

theorem test_decode_init_hash : decode 0b0000000000000000_00000000_00000010#32 = .ok .initHash := by rfl

theorem test_decode_init_keyed : decode 0b0000000000000000_00100000_00000011#32 = .ok (.initKeyed 32) := by rfl

theorem test_decode_init_derive_context : decode 0b0000000000000000_00000000_00000100#32 = .ok .initDeriveContext := by rfl

theorem test_decode_init_derive_material : decode 0b0000000000000000_00000000_00000101#32 = .ok .initDeriveMaterial := by rfl

theorem test_decode_absorb : decode 0b0000000000000000_01000000_00000110#32 = .ok (.absorb 64) := by rfl

theorem test_decode_finalize : decode 0b0000000000000000_00000000_00000111#32 = .ok .finalize := by rfl

theorem test_decode_squeeze : decode 0b0000000000000000_00000000_00001000#32 = .ok .squeeze := by rfl

theorem test_decode_compress : decode 0b0000000000000000_00000000_00001001#32 = .ok .compress := by rfl

theorem test_decode_clear_err : decode 0b0000000000000000_00000000_00001010#32 = .ok .clearErr := by rfl

/-- V-DEC: the illegal words, each with its reason. -/
theorem test_decode_illegal :
    decode 0x00000100 = .error .argumentNotZero ∧ decode 0x00000101 = .error .argumentNotZero ∧
    decode 0x00000109 = .error .argumentNotZero ∧ decode 0x0000000B = .error .unknownOpcode ∧
    decode 0x000000FF = .error .unknownOpcode ∧ decode 0x00010000 = .error .reservedBits ∧
    decode 0x80000002 = .error .reservedBits := by
  refine ⟨?_, ?_, ?_, ?_, ?_, ?_, ?_⟩ <;> rfl

/-- R86: `INIT_KEYED 32` is `0x00002003` and `ABSORB 64` is `0x00004006`. -/
theorem test_encode : encode (.initKeyed 32) = 0x00002003 ∧ encode (.absorb 64) = 0x00004006 := by decide

/-! ### The compression unit -/

/-- V-ROT. -/
theorem test_rotr :
    rotr 0x80000001 16 = 0x00018000 ∧ rotr 0x12345678 12 = 0x67812345 ∧ rotr 0x00000001 8 = 0x01000000 ∧
    rotr 0xfffffffe 7 = 0xfdffffff ∧ rotr 0x80000000 7 = 0x01000000 := by decide

/-- V-G, its diagonal row: the words the last four steps leave, and one the call does not touch. -/
theorem test_mixer_diagonal :
    let v := g #v[0, 1, 2, 3, 4, 5, 6, 7, 8, 9, 10, 11, 12, 13, 14, 15] 1 6 11 12 0xdeadbeef 0x01234567
    v[1] = 0xcbbcf40a ∧ v[12] = 0xa775462a ∧ v[11] = 0x667024e2 ∧ v[6] = 0x9f1b3796 ∧ v[5] = 5 := by
  decide +kernel

/-- V-RND. -/
theorem test_round :
    mixRound #v[0, 1, 2, 3, 4, 5, 6, 7, 8, 9, 10, 11, 12, 13, 14, 15]
      #v[0, 1, 2, 3, 4, 5, 6, 7, 8, 9, 10, 11, 12, 13, 14, 15] =
    #v[0x842af71f, 0x00639c96, 0x617f60d4, 0x56276dbc, 0x4ccfd17a, 0x7678b9be, 0xbd422e5f, 0xaafb629e, 0x1b1eef98,
      0x23b36721, 0xecefb5c4, 0x0a57397c, 0xb54d8a4c, 0x1b1b85c1, 0x7707814d, 0x68d73f43] := by
  decide +kernel

/-- V-CMP-4, R115: every operand 0. -/
theorem test_compress_from_reset : reads (exec .compress State.reset) (.cmpOut 0) 0xfd22061a = true := by decide +kernel

/-- R115: `COMPRESS` needs no hasher and changes no status. -/
theorem test_compress_status : reads (exec .compress State.reset) .status 0 = true := by decide

/-- V-CHK-2: the running CV after 65 bytes, whose first block is compressed with `CHUNK_START` and without `CHUNK_END`. -/
theorem test_running_cv_65 :
    After (absorbByte 0 64 { fullBlock with block := Vector.ofFn fun i => BitVec.ofNat 8 i.val })
      (fun s => s.chunkCv[0] == 0x9d3729ff && s.chunkCv[7] == 0x206f2607) = true := by decide +kernel

/-- Program P4: output block 0 of 1025 bytes, whose root is the parent of chunk 0 (V-TREE-1's `c_0`) and of the one-byte chunk 1. -/
theorem test_parent_root_1025 :
    (outputBlock (captureRoot (rootNode { plain with
      stack := [#v[0x44659e5c, 0xd193e311, 0x10c7bef4, 0x56bcd5cc, 0x7d17ab69, 0xb60e0a61, 0xe9fefc91, 0xb1e8b42f]],
      chunkCtr := 1, block := plain.block.set 0 0x14, blockLen := 1 })) 0)[0] = 0xae7802d0 := by decide +kernel

/-! ### The commands (95_test_vectors.md sections 3, 5, 6 and 7) -/

theorem test_nop_keeps_status : reads (exec .nop errored) .status 0x00010103 = true := by decide

theorem test_nop_keeps_err_cmd : reads (exec .nop errored) .errCmd 0x00001003 = true := by decide

theorem test_reset_leaves_fault : reads (exec .reset faulted) .status 0 = true := by decide

theorem test_reset_clears_din : reads (exec .reset lastChunk) (.din 0) 0 = true := by decide

theorem test_init_hash_status : reads (exec .initHash State.reset) .status 0x00010001 = true := by decide

theorem test_init_hash_ignored_after_fault : reads (exec .initHash faulted) .status 0x00010607 = true := by decide

theorem test_init_keyed_lengths :
    (reads (exec (.initKeyed 32) State.reset) .status 0x00020001 &&
      reads (exec (.initKeyed 16) State.reset) .status 0x00000102 &&
      reads (exec (.initKeyed 16) State.reset) .errCmd 0x00001003) = true := by decide

/-- R188, V-HASH at `n = 0`: words 0, 2 and 6 of the empty keyed hash `92b2b756..1f9d6f62..83f1498a..`. -/
theorem test_init_keyed_digest :
    After (exec (.initKeyed 32) { State.reset with key := #v[0x74616877, 0x68742073, 0x6c452065, 0x68736976, 0x726f7720,
      0x6f662064, 0x72662072, 0x646e6569] })
      (fun s => let w := outputBlock (captureRoot (rootNode s)) 0
        w[0] == 0x56b7b292 && w[2] == 0x626f9d1f && w[6] == 0x8a49f183) = true := by decide +kernel

theorem test_init_derive_context_status : reads (exec .initDeriveContext State.reset) .status 0x00030001 = true := by
  decide

theorem test_init_derive_context_flags : reads (exec .initDeriveContext State.reset) .modeFlags 0x20 = true := by decide

theorem test_init_derive_material_wrong_mode : reads (exec .initDeriveMaterial plain) .status 0x00010703 = true := by
  decide

/-- The context key of the empty context: the first word of its context hash, digest `c4dfce43...` (section 5). -/
theorem test_init_derive_material_key :
    After (exec .initDeriveMaterial context) (fun s => s.keyCv[0] == 0x43cedfc4) = true := by decide +kernel

/-- V-FLT: `ABSORB 2` absorbs nothing. -/
theorem test_absorb_overflow :
    (reads (exec (.absorb 2) lastChunk) .status 0x00010607 && reads (exec (.absorb 2) lastChunk) .errCmd 0x00000206 &&
      reads (exec (.absorb 2) lastChunk) .chunkLen 1024) = true := by decide +kernel

/-- V-CHK-3: `ABSORB 65`. -/
theorem test_absorb_65 :
    (reads (exec (.absorb 65) plain) .status 0x00010403 && reads (exec (.absorb 65) plain) .errCmd 0x00004106) = true := by
  decide

/-- V-CHK-3: `ABSORB 0` after `FINALIZE` clears `OUT_VALID`. -/
theorem test_absorb_0 : reads (exec (.absorb 0) finalized) .status 0x00010001 = true := by decide

theorem test_finalize_status : reads (exec .finalize plain) .status 0x00010009 = true := by decide

theorem test_finalize_not_initialized : reads (exec .finalize State.reset) .status 0x00000302 = true := by decide

/-- V-CMP-1's out: output block 0 of the empty input. -/
theorem test_squeeze_empty :
    (reads (exec .squeeze finalized) (.dout 0) 0xb94913af && reads (exec .squeeze finalized) (.dout 15) 0x3a24086c) = true := by
  decide +kernel

/-- Section 6: the output block at the largest counter, and the wrap of `OUT_CTR`. -/
theorem test_squeeze_wraps :
    (reads (exec .squeeze { finalized with outCtr := 0xFFFFFFFFFFFFFFFF }) (.dout 0) 0x8114f283 &&
      reads (exec .squeeze { finalized with outCtr := 0xFFFFFFFFFFFFFFFF }) .outCtrHi 0) = true := by
  decide +kernel

theorem test_clear_err : reads (exec .clearErr errored) .status 0x00010001 = true := by decide

theorem test_clear_err_ignored_after_fault : reads (exec .clearErr faulted) .status 0x00010607 = true := by decide

/-! ### The host port and the host notation -/

/-- R98: how the program that hashes "abc" begins. -/
theorem test_host_program_abc :
    newHasher ++ updatePiece [0x61, 0x62, 0x63] =
      [.write 32 0x00C 0x00000002, .write 32 0x080 0x00636261, .write 32 0x00C 0x00000306] := by decide

/-- R96: `UPDATE` of no bytes is empty and `DIGEST 0` is `FINALIZE` alone (R217). -/
theorem test_host_program_empty : update [] = [] ∧ digest 0 = [.write 32 0x00C 0x00000007] := by decide

/-- R96: `UPDATE` of 65 bytes is one piece of 64 and one of 1. -/
theorem test_host_program_update_65 :
    update (List.replicate 65 0) = updatePiece (List.replicate 64 0) ++ updatePiece [0] := by decide +kernel

/-- R94, R96: the host passes the key's real length. -/
theorem test_host_program_key :
    (newKeyedHasher (List.replicate 32 0)).getLast? = some (.write 32 0x00C 0x00002003) ∧
    (loadKey [0x77, 0x68, 0x61, 0x74]).head? = some (.write 32 0x040 0x74616877) := by decide

/-- R95: the last four writes of `LOAD_CMP`. -/
theorem test_host_program_cmp :
    (loadCmp iv (Vector.replicate 16 0) 0x100000002 3 0x0B).drop 24 =
      [.write 32 0x120 2, .write 32 0x124 1, .write 32 0x128 3, .write 32 0x12C 0x0B] := by decide +kernel

/-- R7, R217: the default digest is 32 bytes, one `SQUEEZE` and the reads of `DOUT0` to `DOUT15`. -/
theorem test_digest_default :
    digest = digest 32 ∧ digest.take 3 = [.write 32 0x00C 0x00000007, .write 32 0x00C 0x00000008, .read 32 0x0C0] ∧
    digest.length = 18 ∧ (digestBytes (List.replicate 16 0)).length = 32 := by decide +kernel

/-- R217: `ceil(n/64)` blocks at the boundaries of a block. -/
theorem test_digest_blocks : digestBlocks 0 = 0 ∧ digestBlocks 1 = 1 ∧ digestBlocks 64 = 1 ∧ digestBlocks 65 = 2 := by decide

/-- The digest of the first words of V-CMP-1 is the start of the empty digest (R217). -/
theorem test_digest_bytes : digestBytes [0xb94913af, 0xa6a1f9f5] 4 = [0xaf, 0x13, 0x49, 0xb9] := by decide

/-- R62: a read returns the register's word to the host. -/
theorem test_read_id : After (step { State.reset with pending := [rd .id] }) (fun s => s.returned == [0x42330007]) = true := by
  decide

/-- R45: a write to `B_LEN` keeps bits 7:0. -/
theorem test_write_b_len : reads (hostWrite 32 0x128 0xFFFFFF41 State.reset) .bLen 0x41 = true := by decide

/-- V-ERR: an illegal word is recorded. -/
theorem test_illegal_word : reads (executeWord 0x00010000 State.reset) .status 0x00000202 = true := by decide

/-- R63: a misaligned write, an eight-bit read, a reserved offset, a write to `STATUS` and a read of `CMD`. -/
theorem test_bus_errors :
    hostWrite 32 0x081 0 State.reset = .fault .busError ∧ hostRead 8 0x080 State.reset = .fault .busError ∧
    hostRead 32 0x030 State.reset = .fault .busError ∧ hostWrite 32 0x008 0 State.reset = .fault .busError ∧
    hostRead 32 0x00C State.reset = .fault .busError := by
  refine ⟨?_, ?_, ?_, ?_, ?_⟩ <;> rfl

/-! ### Running a command as the first after reset -/

theorem test_table_word : decodeTableWord 32 0x00004006 = some (.absorb 64) ∧ decodeTableWord 32 0x0000000B = none := by
  decide

theorem test_first_command : step (State.reset.withFetchWord 32 0x00000002) = exec .initHash State.reset := by rfl

/-! ### Witnesses: for every statement with hypotheses, states and operands that meet them -/

theorem wf_reset : BlockInv State.reset := by constructor <;> decide

theorem wf_plain : BlockInv plain := by constructor <;> decide

theorem wf_finalized : BlockInv finalized := by constructor <;> decide

/-- The invariant at its bounds: 64 entries, 15 blocks and a full last block. -/
theorem wf_lastChunk : BlockInv lastChunk := by
  constructor
  case block_tail => intro i hi; exact absurd hi (by have := i.isLt; simp only [lastChunk]; omega)
  all_goals decide

theorem wf_faulted : BlockInv faulted := by
  constructor
  case block_tail => intro i hi; exact absurd hi (by have := i.isLt; simp only [faulted, lastChunk]; omega)
  all_goals decide

theorem fresh_plain : FreshHasher plain := by constructor <;> decide

theorem fresh_context : FreshHasher context := by constructor <;> decide

theorem witness_DecodeOfEncode : (Instr.initKeyed 255).wf = true ∧ (Instr.absorb 255).wf = true ∧ Instr.nop.wf = true := by
  decide

theorem witness_EncodeOfDecode : decode 0x0000FF06 = .ok (.absorb 255) ∧ decode 0x0000000A = .ok .clearErr := ⟨rfl, rfl⟩

/-- A word for each clause, at the boundary of its field. -/
theorem witness_DecodeFollowsThePseudocode :
    (0x00010000 : Word).extractLsb' 16 16 ≠ 0 ∧
    ((0x0000000B : Word).extractLsb' 16 16 = 0 ∧ 0x0A < ((0x0000000B : Word).extractLsb' 0 8).toNat) ∧
    ((0x0000010A : Word).extractLsb' 16 16 = 0 ∧ ((0x0000010A : Word).extractLsb' 0 8).toNat ≤ 0x0A ∧
      ((0x0000010A : Word).extractLsb' 8 8).toNat ≠ 0 ∧ ((0x0000010A : Word).extractLsb' 0 8).toNat ≠ 0x03 ∧
      ((0x0000010A : Word).extractLsb' 0 8).toNat ≠ 0x06) ∧
    ((0x0000FF06 : Word).extractLsb' 16 16 = 0 ∧ ((0x0000FF06 : Word).extractLsb' 0 8).toNat ≤ 0x0A ∧
      ((0x0000FF06 : Word).extractLsb' 0 8).toNat = 0x06) := by decide

theorem witness_IllegalWordsOnlyRecordAnError :
    decode 0x0000000B = .error .unknownOpcode ∧ faulted.fault = true ∧ (errored.fault = false ∧ errored.err = true) ∧
    (plain.fault = false ∧ plain.err = false) := by
  refine ⟨rfl, ?_⟩; decide

theorem witness_StepRunsTheDecodedCommand :
    ({ State.reset with pending := [.write 32 0x00C 0x00004006, .resetInput] } : State).pending =
      .write 32 0x00C 0x00004006 :: [.resetInput] ∧
    decode 0x00004006 = .ok (.absorb 64) ∧ (Instr.absorb 255).wf = true ∧ State.reset.pending = [] := ⟨rfl, rfl, rfl, rfl⟩

theorem witness_AccessSideEffects :
    (∃ t, hostRead 32 0x008 plain = .next t) ∧ accessOf (.din 15) = .rw ∧ Reg.din 14 ≠ .din 15 := ⟨⟨_, rfl⟩, by decide⟩

theorem witness_AccessClasses :
    accessOf (.cmpOut 15) ≠ .wo ∧ (accessOf .cmd = .wo ∧ BlockInv lastChunk) ∧ accessOf .id = .ro ∧ accessOf .bLen = .rw ∧
    accessOf (.mIn 15) = .rw :=
  ⟨by decide, ⟨by decide, wf_lastChunk⟩, by decide⟩

theorem witness_RegisterMapIsExact :
    regAt 0x1BC = some (.cmpOut 15) ∧ Config.windowOffset (Config.hostAddress 0xFFF) = some 0xFFF := by
  refine ⟨rfl, ?_⟩
  simp [Config.windowOffset, Config.hostAddress, Config.windowLen]

theorem witness_ResetReads : Reg.cmpOut 15 ≠ .id ∧ Reg.cmpOut 15 ≠ .config ∧ Reg.cmpOut 15 ≠ .cmd := by decide

theorem witness_ProgressViews : BlockInv lastChunk ∧ BlockInv State.reset := ⟨wf_lastChunk, wf_reset⟩

/-- A word other than `RESET`, a readable and a writable register, and an event that ends the fault. -/
theorem witness_FaultStop :
    faulted.fault = true ∧ (0x00000101 : Word) ≠ 0x00000001 ∧ readReg .status faulted = some 0x00010607 ∧
    accessOf (.key 7) = .rw ∧ ∃ t, serve .resetInput faulted = .next t ∧ t.fault = false := by
  refine ⟨by decide, by decide, by decide, by decide, _, rfl, rfl⟩

theorem witness_CheckOrder :
    (State.reset.fault = false ∧ State.reset.err = false ∧ State.reset.ready = false) ∧
    (plain.fault = false ∧ plain.err = false ∧ plain.ready = true ∧ plain.outValid = false ∧ plain.mode ≠ .deriveContext) ∧
    64 < 65 ∧ 33 ≠ 32 := by decide

theorem witness_FirstErrorIsKept :
    errored.err = true ∧ (∃ t, executeWord 0x00000008 errored = .next t) ∧ (0x00000008 : Word) ≠ encode .clearErr ∧
    (0x00000008 : Word) ≠ encode .reset := ⟨rfl, ⟨_, rfl⟩, by decide, by decide⟩

/-- One rejected command for each code, and the fault. -/
theorem witness_ErrorsOfEachCommand :
    (∃ t, exec (.initKeyed 33) plain = .next t ∧ t.err = true) ∧ (∃ t, exec .initDeriveMaterial plain = .next t ∧ t.err = true) ∧
    (∃ t, exec (.absorb 65) plain = .next t ∧ t.err = true) ∧ (∃ t, exec .finalize State.reset = .next t ∧ t.err = true) ∧
    (∃ t, exec .squeeze plain = .next t ∧ t.err = true) ∧ (∃ t, exec (.absorb 2) lastChunk = .next t ∧ t.err = true) ∧
    (plain.fault = false ∧ plain.err = false) ∧ lastChunk.fault = false ∧ lastChunk.err = false := by
  refine ⟨⟨_, rfl, rfl⟩, ⟨_, rfl, rfl⟩, ⟨_, rfl, rfl⟩, ⟨_, rfl, rfl⟩, ⟨_, rfl, rfl⟩, ⟨_, rfl, rfl⟩, ?_⟩
  decide

/-- An event, an error, and the fault. -/
theorem witness_ErrorHasNoOtherEffect :
    (∃ t, serve (.write 32 0x00C 0x0000000B) plain = .next t ∧ plain.err = false ∧ t.err = true) ∧
    (∃ t, executeWord 0x00010000 plain = .next t ∧ t.err = true ∧ t.errcode ≠ .counterOverflow) ∧
    (∃ t, executeWord 0x00000206 lastChunk = .next t ∧ t.err = true ∧ t.errcode = .counterOverflow) := by
  refine ⟨⟨_, rfl, rfl, rfl⟩, ⟨_, rfl, rfl, by decide⟩, ⟨_, rfl, rfl, rfl⟩⟩

/-- One event for each clause. -/
theorem witness_StickyStatusBits :
    (plain.fault = false ∧ plain.err = false ∧ (∃ t, serve (.write 32 0x00C 0x0000000B) plain = .next t ∧ t.err = true) ∧
      decode 0x0000000B = .error .unknownOpcode) ∧
    (lastChunk.fault = false ∧ lastChunk.ready = true ∧ lastChunk.chunkCtr = 0xFFFFFFFFFFFFFFFF ∧ chunkLen lastChunk = 1024 ∧
      ∃ t, serve (.write 32 0x00C (encode (.absorb 64))) lastChunk = .next t) ∧
    (errored.fault = false ∧ ∃ t, serve (.write 32 0x00C (encode (.initKeyed 32))) errored = .next t) ∧
    (∃ t, serve .resetInput plain = .next t ∧ plain.ready = true ∧ t.ready = false) ∧
    (∃ t, serve (.write 32 0x00C 0x00000002) State.reset = .next t ∧ State.reset.ready = false ∧ t.ready = true) ∧
    (∃ t, serve (.write 32 0x00C 0x0000000A) errored = .next t ∧ errored.err = true ∧ t.err = false) ∧
    (∃ t, serve (.write 32 0x00C 0x00000001) faulted = .next t ∧ faulted.fault = true ∧ t.fault = false) ∧
    (∃ t, serve (.write 32 0x00C 0x00000106) lastChunk = .next t ∧ lastChunk.fault = false ∧ t.fault = true) := by
  refine ⟨⟨rfl, rfl, ⟨_, rfl, rfl⟩, rfl⟩, ⟨rfl, rfl, rfl, rfl, _, rfl⟩, ⟨rfl, _, rfl⟩, ⟨_, rfl, rfl, rfl⟩, ⟨_, rfl, rfl, rfl⟩,
    ⟨_, rfl, rfl, rfl⟩, ⟨_, rfl, rfl, rfl⟩, ⟨_, rfl, rfl, rfl⟩⟩

theorem witness_CommandsKeepOperandRegisters :
    (0x00000002 : Word) ≠ encode .reset ∧ ∃ t, executeWord 0x00000002 lastChunk = .next t := ⟨by decide, _, rfl⟩

theorem witness_OutputRegisterWriters :
    (0x00000009 : Word) ≠ encode .reset ∧ (0x00000009 : Word) ≠ encode .squeeze ∧ (0x00000008 : Word) ≠ encode .compress ∧
    (∃ t, executeWord 0x00000009 State.reset = .next t) := ⟨by decide, by decide, by decide, _, rfl⟩

/-- The last clause's hypothesis: a `SQUEEZE` that changes `DOUT`. -/
theorem witness_OutputRegisterWriters_dout :
    After (executeWord 0x00000008 finalized) (fun t => decide (t.dout ≠ finalized.dout)) = true := by decide +kernel

theorem witness_KeySampledOnlyByInitKeyed :
    (∀ a, Instr.absorb 64 ≠ .initKeyed a) ∧ Instr.absorb 64 ≠ .reset ∧ (∃ t, exec (.absorb 64) plain = .next t) ∧
    plain.fault = false := ⟨by simp, by simp, ⟨_, rfl⟩, rfl⟩

theorem witness_CompressInterleaves :
    Instr.finalize ≠ .compress ∧ Instr.finalize ≠ .reset ∧ (∃ s', exec .compress plain = .next s') ∧
    ∃ t, exec .finalize plain = .next t := ⟨by simp, by simp, ⟨_, rfl⟩, ⟨_, rfl⟩⟩

theorem witness_NopChangesNothing : (0x00000100 : Word).extractLsb' 0 8 = 0 ∧ (0x00000100 : Word) ≠ 0 := by decide

theorem witness_ResetCommand : (∃ t, exec .reset faulted = .next t) ∧ accessOf (.mIn 15) = .rw := ⟨⟨_, rfl⟩, rfl⟩

theorem witness_InitHashStartsAPlainHasher :
    faulted.fault = true ∧ lastChunk.fault = false ∧ ∃ t, exec .initHash State.reset = .next t := ⟨rfl, rfl, _, rfl⟩

theorem witness_InitKeyedStartsAKeyedHasher :
    faulted.fault = true ∧ (errored.fault = false ∧ 0 ≠ 32 ∧ errored.err = true) ∧
    (plain.fault = false ∧ 255 ≠ 32 ∧ plain.err = false) := by decide

theorem witness_InitKeyedStartsAKeyedHasher_example :
    ∃ t, exec (.initKeyed 32) { State.reset with key := #v[0x74616877, 0x68742073, 0x6c452065, 0x68736976, 0x726f7720,
      0x6f662064, 0x72662072, 0x646e6569] } = .next t := ⟨_, rfl⟩

theorem witness_InitDeriveContextStartsTheContextPhase :
    faulted.fault = true ∧ lastChunk.fault = false ∧ ∃ t, exec .initDeriveContext State.reset = .next t := ⟨rfl, rfl, _, rfl⟩

theorem witness_InitDeriveMaterialSeedsTheMaterialPhase :
    faulted.fault = true ∧ (errored.fault = false ∧ errored.mode ≠ .deriveContext ∧ errored.err = true) ∧
    (State.reset.fault = false ∧ State.reset.ready = false ∧ State.reset.err = false) ∧
    (plain.fault = false ∧ plain.ready = true ∧ plain.mode ≠ .deriveContext ∧ plain.err = false) ∧
    (context.fault = false ∧ context.ready = true ∧ context.mode = .deriveContext) ∧
    ∃ s1 s2 s3 s4 s5 s6, exec .initDeriveContext State.reset = .next s1 ∧
      exec (.absorb 26) { s1 with din := #v[0x776f656d, 0x776f656d, 0x79726576, 0x75636573, 0x656d6572, 0x656d776f,
        0x0000776f, 0, 0, 0, 0, 0, 0, 0, 0, 0] } = .next s2 ∧
      exec .initDeriveMaterial s2 = .next s3 ∧
      exec (.absorb 16) { s3 with din := #v[0x73696854, 0x20736920, 0x74732061, 0x676e6972, 0, 0, 0, 0, 0, 0, 0, 0, 0,
        0, 0, 0] } = .next s4 ∧
      exec .finalize s4 = .next s5 ∧ exec .squeeze s5 = .next s6 :=
  ⟨by decide, by decide, by decide, by decide, by decide, _, _, _, _, _, _, rfl, rfl, rfl, rfl, rfl, rfl⟩

theorem witness_ClearErrClearsTheRecord :
    faulted.fault = true ∧ errored.fault = false ∧ (BlockInv plain ∧ plain.err = false) := ⟨rfl, rfl, wf_plain, rfl⟩

theorem witness_FinalizeCapturesTheRoot :
    faulted.fault = true ∧ (({ errored with ready := false } : State).ready = false ∧ errored.err = true ∧
      errored.fault = false) ∧ (State.reset.ready = false ∧ State.reset.err = false ∧ State.reset.fault = false) ∧
    (lastChunk.fault = false ∧ lastChunk.ready = true) ∧
    ∃ s t, exec .initHash State.reset = .next s ∧ exec .finalize s = .next t := by
  refine ⟨by decide, by decide, by decide, by decide, _, _, rfl, rfl⟩

theorem witness_SqueezeGivesTheNextBlock :
    faulted.fault = true ∧ (errored.fault = false ∧ errored.outValid = false ∧ errored.err = true) ∧
    (State.reset.fault = false ∧ State.reset.ready = false ∧ State.reset.err = false) ∧
    (plain.fault = false ∧ plain.ready = true ∧ plain.outValid = false ∧ plain.err = false) ∧
    (finalized.fault = false ∧ finalized.ready = true ∧ finalized.outValid = true) ∧ BlockInv lastChunk ∧
    ∃ s1 s2 s3 s4, exec .initHash State.reset = .next s1 ∧
      exec (.absorb 16) { s1 with din := #v[0x73696854, 0x20736920, 0x74732061, 0x676e6972, 0, 0, 0, 0, 0, 0, 0, 0, 0,
        0, 0, 0] } = .next s2 ∧
      exec .finalize s2 = .next s3 ∧ exec .squeeze s3 = .next s4 :=
  ⟨by decide, by decide, by decide, by decide, by decide, wf_lastChunk, _, _, _, _, rfl, rfl, rfl, rfl⟩

theorem witness_CompressCommand :
    faulted.fault = true ∧ State.reset.fault = false ∧ (∃ t, exec .compress State.reset = .next t) ∧
    (0x80000009 : Word).extractLsb' 0 8 = 0x09 ∧ (0x80000009 : Word) ≠ 0x00000009 := ⟨rfl, rfl, ⟨_, rfl⟩, by decide, by decide⟩

/-- Both ends of the byte count, an uninitialized block, a length too large, and the invariant at its bounds. -/
theorem witness_AbsorbTakesTheFirstBytes :
    255 < 256 ∧ faulted.fault = true ∧ (errored.fault = false ∧ 64 < 65 ∧ errored.err = true) ∧
    (State.reset.fault = false ∧ State.reset.ready = false ∧ State.reset.err = false) ∧
    (plain.fault = false ∧ plain.ready = true ∧ plain.err = false) ∧
    (BlockInv lastChunk ∧ lastChunk.fault = false ∧ lastChunk.ready = true ∧ 64 ≤ 64) ∧
    ∃ s t, exec .initHash State.reset = .next s ∧ exec (.absorb 3) { s with din := s.din.set 0 0x00636261 } = .next t := by
  refine ⟨by decide, by decide, by decide, by decide, by decide, ⟨wf_lastChunk, by decide⟩, _, _, rfl, rfl⟩

theorem witness_RotateRightBits : 0 < 31 ∧ 31 < 32 ∧ 0 < 1 := by decide

theorem witness_MixerStep : [(0 : Fin 16), 4, 8, 12].Nodup ∧ (3 : Fin 16) ∉ [(0 : Fin 16), 4, 8, 12] := by decide

/-- The two groups in another order. -/
theorem witness_RoundOrderFree :
    [gTable[3], gTable[2], gTable[1], gTable[0]].Perm (gTable.take 4) ∧
    [gTable[7], gTable[6], gTable[5], gTable[4]].Perm (gTable.drop 4) := by decide

theorem witness_BytesAndWords : ([] : List Byte).length ≤ 64 ∧ (List.replicate 64 (1 : Byte)).length ≤ 64 := by decide

theorem witness_InputByteLanes : 64 ≤ 64 ∧ 63 < 64 := by decide

/-- One state for each case. -/
theorem witness_AbsorbByteStep :
    (plain.fault = false ∧ plain.blockLen.val < 64) ∧
    (fullBlock.fault = false ∧ fullBlock.blockLen.val = 64 ∧ fullBlock.blocksDone.val < 15) ∧
    (fullChunk.fault = false ∧ fullChunk.blockLen.val = 64 ∧ fullChunk.blocksDone.val = 15 ∧
      fullChunk.chunkCtr.toNat + 1 < 2 ^ 64 ∧
      ∃ s', merge (chainingValue (chunkNode fullChunk)) (fullChunk.chunkCtr + 1) fullChunk = some s') ∧
    (lastChunk.fault = false ∧ lastChunk.blockLen.val = 64 ∧ lastChunk.blocksDone.val = 15 ∧
      lastChunk.chunkCtr.toNat + 1 = 2 ^ 64 ∧ lastChunk.err = false) ∧
    ({ lastChunk with err := true, errcode := .noOutput } : State).err = true := by
  exact ⟨by decide, by decide, ⟨by decide, by decide, by decide, by decide, ⟨_, rfl⟩⟩, by decide, rfl⟩

/-- A piece of 64 bytes and one of 1, and no pieces. -/
theorem witness_ProgressCounts :
    FreshHasher plain ∧ (∀ p ∈ [(64, plain.din), (1, plain.din)], p.1 ≤ 64) ∧
    (pieceBytes [(64, plain.din), (1, plain.din)]).length = 65 ∧ (pieceBytes []).length = 0 ∧ 65 < 2 ^ 64 * 1024 + 1 :=
  ⟨fresh_plain, by decide, by decide, by decide, by decide⟩

/-- Four bytes in one piece and in two. -/
theorem witness_SplitsDoNotMatter :
    plain.ready = true ∧ plain.fault = false ∧
    pieceBytes [(4, plain.din)] = pieceBytes [(3, plain.din), (0, lastChunk.din), (1, plain.din)] ∧
    ∃ t, absorbPieces [(4, plain.din)] plain = .next t ∧ t.fault = false :=
  ⟨rfl, rfl, by decide, _, rfl, rfl⟩

theorem witness_EmptyChunkNode : FreshHasher plain ∧ FreshHasher context := ⟨fresh_plain, fresh_context⟩

theorem witness_ChunkNodeOfTheInput :
    FreshHasher plain ∧ ∃ t, absorbPieces [(3, plain.din), (2, plain.din)] plain = .next t ∧ t.fault = false :=
  ⟨fresh_plain, _, rfl, rfl⟩

/-- The first chunk, and the last with 63 entries on the stack. -/
theorem witness_MergeKeepsTheCount :
    ((1 : Counter) ≠ 0 ∧ plain.stack.length = popcount (1 - 1)) ∧
    ((0xFFFFFFFFFFFFFFFF : Counter) ≠ 0 ∧ (List.replicate 63 iv).length = popcount (0xFFFFFFFFFFFFFFFF - 1)) := by decide

theorem witness_StackHoldsCompleteSubtrees : plain.stack = [] ∧ [iv, iv, iv].length < 2 ^ 64 := by decide

theorem witness_RootIsTheMerkleRoot :
    FreshHasher context ∧ ∃ t, absorbPieces [(26, plain.din)] context = .next t ∧ t.fault = false :=
  ⟨fresh_context, _, rfl, rfl⟩

theorem witness_RootFoldCorners :
    (BlockInv plain ∧ plain.ready = true ∧ plain.fault = false ∧ plain.stack = []) ∧
    ({ plain with stack := [iv], chunkCtr := 1 } : State).stack = [iv] :=
  ⟨⟨wf_plain, rfl, rfl, rfl⟩, rfl⟩

theorem witness_SqueezedBlocks :
    plain.fault = false ∧ plain.ready = true ∧ (∃ s', exec .finalize plain = .next s') ∧ 1 ≤ 1 ∧ 2 ^ 64 ≤ 2 ^ 64 :=
  ⟨rfl, rfl, ⟨_, rfl⟩, by decide, by decide⟩

theorem witness_OutputKeepsTheHasher :
    (plain.fault = false ∧ plain.ready = true ∧ ∃ t, exec .finalize plain = .next t) ∧
    (finalized.fault = false ∧ finalized.ready = true ∧ finalized.outValid = true ∧
      ∃ t u v, exec .squeeze finalized = .next t ∧ exec .finalize finalized = .next u ∧ exec .finalize t = .next v) :=
  ⟨⟨rfl, rfl, _, rfl⟩, rfl, rfl, rfl, _, _, _, rfl, rfl, rfl⟩

theorem witness_StepKeepsTheBlockInvariant :
    BlockInv { lastChunk with pending := [.write 32 0x00C 0x00004006] } ∧
    ∃ t, step { lastChunk with pending := [.write 32 0x00C 0x00004006] } = .next t := by
  refine ⟨?_, _, rfl⟩
  have h := wf_lastChunk
  exact ⟨h.ready_iff_mode, h.blocks_done_le, h.block_started, h.chunk_le, h.stack_popcount, h.stack_le, h.no_error_record,
    h.error_recorded, h.block_tail⟩

/-- A state whose output is current and valid, about to absorb. -/
theorem witness_StepKeepsTheOutputCurrent :
    OutputCurrent { finalized with pending := [.write 32 0x00C 0x00004006] } ∧ finalized.outValid = true ∧
    ∃ t, step { finalized with pending := [.write 32 0x00C 0x00004006] } = .next t := by
  refine ⟨⟨fun _ => rfl, fun _ => ?_⟩, rfl, _, rfl⟩
  decide +kernel

/-- A state reached by a step from reset with the host's accesses issued after it. -/
theorem witness_ReachableStatesMeetTheInvariants : ∃ t, Reachable t ∧ t.ready = true :=
  ⟨_, .step (.issue [cmd .initHash] (.reset [])) rfl, rfl⟩

theorem witness_EveryCommandCompletes : BlockInv lastChunk ∧ BlockInv faulted ∧ BlockInv State.reset :=
  ⟨wf_lastChunk, wf_faulted, wf_reset⟩

end Sys2Proof.Tests
end

section
/-! # Proofs: the general definitions of `00_scope.md`

Rotation (R10), packing of bytes in words (R13), and the completion of every command (R17), which rests on the merge stack never
underflowing (R166, R167). -/

namespace Sys2Proof.Machine

/-! ### Rotation -/

/-- R10's formula is the library's right rotation. -/
theorem rotr_eq_rotateRight (x : Word) {n : Nat} (hn : n < 32) : rotr x n = x.rotateRight n := by
  rw [BitVec.rotateRight_def, Nat.mod_eq_of_lt hn, rotr]

/-- Settles O38: bit `i` of the rotation comes from bit `i + n`, or from `i + n - 32` past the top. -/
theorem rotateRightBits : Obligations.RotateRightBits := by
  intro x n _ hn i hi
  rw [rotr_eq_rotateRight x hn, BitVec.getLsbD_rotateRight, Nat.mod_eq_of_lt hn, Nat.add_comm i n]
  by_cases hlow : i < 32 - n
  · rw [Nat.mod_eq_of_lt (show n + i < 32 by omega)]
    simp [hlow]
  · rw [show (n + i) % 32 = i - (32 - n) by omega]
    simp [hlow, hi]

/-! ### Packing of bytes in words -/

/-- Byte `k` of a packed word is the `k`-th byte packed. -/
theorem leWord_extractLsb' (b0 b1 b2 b3 : Byte) {k : Nat} (hk : k < 4) :
    (leWord b0 b1 b2 b3).extractLsb' (8 * k) 8 = [b0, b1, b2, b3].getD k 0 := by
  apply BitVec.eq_of_getLsbD_eq
  intro i hi
  simp only [leWord, BitVec.getLsbD_extractLsb', BitVec.getLsbD_or, BitVec.getLsbD_shiftLeft, BitVec.getLsbD_setWidth]
  match k, hk with
  | 0, _ | 1, _ | 2, _ | 3, _ => grind

/-- A word packed from its own four bytes is that word. -/
theorem leWord_bytes (w : Word) :
    leWord (w.extractLsb' 0 8) (w.extractLsb' 8 8) (w.extractLsb' 16 8) (w.extractLsb' 24 8) = w := by
  apply BitVec.eq_of_getLsbD_eq
  intro i hi
  simp only [leWord, BitVec.getLsbD_extractLsb', BitVec.getLsbD_or, BitVec.getLsbD_shiftLeft, BitVec.getLsbD_setWidth]
  grind

theorem wordBytes_getElem? (w : Word) {k : Nat} (hk : k < 4) :
    (wordBytes w)[k]? = some (w.extractLsb' (8 * k) 8) := by
  match k, hk with
  | 0, _ | 1, _ | 2, _ | 3, _ => rfl

theorem bytesLe_cons (w : Word) (ws : List Word) : bytesLe (w :: ws) = wordBytes w ++ bytesLe ws := rfl

theorem bytesLe_length (ws : List Word) : (bytesLe ws).length = 4 * ws.length := by
  induction ws with
  | nil => rfl
  | cons w ws ih =>
    calc (bytesLe (w :: ws)).length = 4 + (bytesLe ws).length := by rw [bytesLe_cons, List.length_append]; rfl
      _ = 4 * (ws.length + 1) := by rw [ih]; omega

/-- Byte `j` of the bytes of words is byte `j mod 4` of word `j div 4`. -/
theorem bytesLe_getElem? (ws : List Word) (j : Nat) :
    (bytesLe ws)[j]? = ws[j / 4]?.map fun w => w.extractLsb' (8 * (j % 4)) 8 := by
  induction ws generalizing j with
  | nil => rfl
  | cons w ws ih =>
    by_cases hj : j < 4
    · rw [bytesLe_cons, List.getElem?_append_left hj, wordBytes_getElem? w hj, Nat.div_eq_of_lt hj, Nat.mod_eq_of_lt hj]
      rfl
    · obtain ⟨j, rfl⟩ : ∃ i, j = i + 4 := ⟨j - 4, by omega⟩
      rw [bytesLe_cons, List.getElem?_append_right (Nat.le_add_left 4 j), Nat.add_div_right j (by decide), Nat.add_mod_right]
      exact ih j

/-- Byte `k` of word `i` packed from a string is byte `4 i + k` of the string, zero past its end. -/
theorem leWordAt_extractLsb' (bs : List Byte) (i : Nat) {k : Nat} (hk : k < 4) :
    (leWordAt bs i).extractLsb' (8 * k) 8 = bs.getD (4 * i + k) 0 := by
  rw [leWordAt, leWord_extractLsb' _ _ _ _ hk]
  match k, hk with
  | 0, _ | 1, _ | 2, _ | 3, _ => rfl

/-- Word `i` packed from the bytes of words is word `i`. -/
theorem leWordAt_bytesLe (ws : List Word) (i : Nat) (h : i < ws.length) : leWordAt (bytesLe ws) i = ws[i] := by
  induction ws generalizing i with
  | nil => exact absurd h (Nat.not_lt_zero i)
  | cons w ws ih =>
    cases i with
    | zero => exact leWord_bytes w
    | succ i => exact ih i (Nat.lt_of_succ_lt_succ h)

theorem keyWordsLe_get (bs : List Byte) (i : Nat) (h : i < 8) : (keyWordsLe bs)[i] = leWordAt bs i := by
  simp [keyWordsLe]

theorem wordsLe_bytesLe (w : Words16) : wordsLe (bytesLe w.toList) = w := by
  ext i hi
  rw [wordsLe_get _ i hi, leWordAt_bytesLe w.toList i (by simpa using hi), Vector.getElem_toList]

theorem keyWordsLe_bytesLe (w : Vector Word 8) : keyWordsLe (bytesLe w.toList) = w := by
  ext i hi
  rw [keyWordsLe_get _ i hi, leWordAt_bytesLe w.toList i (by simpa using hi), Vector.getElem_toList]

/-- Byte `j` of a block packed from a string is byte `j` of the string, zero past its end. -/
theorem bytesLe_wordsLe_getElem? (bs : List Byte) {j : Nat} (hj : j < 64) :
    (bytesLe (wordsLe bs).toList)[j]? = some (bs.getD j 0) := by
  have hword : (wordsLe bs).toList[j / 4]? = some (leWordAt bs (j / 4)) := by
    rw [List.getElem?_eq_getElem (by simp; omega), Vector.getElem_toList, wordsLe_get _ _ (by omega)]
  rw [bytesLe_getElem?, hword, Option.map_some, leWordAt_extractLsb' bs _ (Nat.mod_lt j (by decide)), Nat.div_add_mod]

theorem bytesLe_wordsLe (bs : List Byte) (h : bs.length ≤ 64) :
    bytesLe (wordsLe bs).toList = bs ++ List.replicate (64 - bs.length) 0 := by
  apply List.ext_getElem?
  intro j
  by_cases hj : j < 64
  · rw [bytesLe_wordsLe_getElem? bs hj]
    by_cases hlt : j < bs.length
    · rw [List.getElem?_append_left hlt, List.getD_eq_getElem _ _ hlt, List.getElem?_eq_getElem hlt]
    · rw [List.getElem?_append_right (by omega), List.getElem?_replicate_of_lt (by omega),
        List.getD_eq_default _ _ (by omega)]
  · have hlen : (bytesLe (wordsLe bs).toList).length = 64 := by rw [bytesLe_length, Vector.length_toList]
    rw [List.getElem?_eq_none (by omega), List.getElem?_eq_none (by simp; omega)]

/-- Settles O43: word by word in one direction, byte by byte in the other. -/
theorem bytesAndWords : Obligations.BytesAndWords :=
  ⟨wordsLe_bytesLe, keyWordsLe_bytesLe, bytesLe_wordsLe⟩

/-! ### The set bits of a count, from its lowest bit

`merge` on `total` consumes an entry for each trailing zero of `total` and leaves one, as the subtraction of one from `total` sets
those zeros and clears the bit above them. -/

theorem counter_bit_zero (x : Counter) : x[0] = decide (x.toNat % 2 = 1) := by
  rw [BitVec.getElem_eq_testBit_toNat, Nat.testBit_zero]

theorem popcount_eq (x : Counter) : popcount x = popcount (x >>> 1) + x[0].toNat := by
  have hbit : ∀ i, (x >>> 1).getLsbD i = x.getLsbD (i + 1) := fun i => by
    rw [BitVec.getLsbD_ushiftRight, Nat.add_comm]
  have hhalf : popcount (x >>> 1) = (List.range 63).countP fun i => x.getLsbD (i + 1) := by
    simp only [popcount, hbit, List.range_succ (n := 63), List.countP_append]
    simp
  rw [hhalf, popcount, List.range_succ_eq_map, List.countP_cons, List.countP_map, ← BitVec.getLsbD_eq_getElem]
  congr 1
  cases x.getLsbD 0 <;> rfl

theorem popcount_of_odd {x : Counter} (h : x[0] = true) : popcount x = popcount (x - 1) + 1 := by
  have hodd : x.toNat % 2 = 1 := by simpa [counter_bit_zero] using h
  have hpred : (x - 1)[0] = false := by rw [counter_bit_zero, decide_eq_false_iff_not]; bv_omega
  have hhalf : (x - 1) >>> 1 = x >>> 1 := by bv_omega
  rw [popcount_eq x, popcount_eq (x - 1), h, hpred, hhalf]
  rfl

theorem popcount_of_even {x : Counter} (h : x[0] = false) : popcount x = popcount (x >>> 1) := by
  rw [popcount_eq, h]
  rfl

theorem popcount_pred_of_even {x : Counter} (h : x[0] = false) (hx : x ≠ 0) :
    popcount (x - 1) = popcount (x >>> 1 - 1) + 1 := by
  have heven : x.toNat % 2 = 0 := by simpa [counter_bit_zero] using h
  have hpred : (x - 1)[0] = true := by rw [counter_bit_zero, decide_eq_true_iff]; bv_omega
  have hhalf : (x - 1) >>> 1 = x >>> 1 - 1 := by bv_omega
  rw [popcount_eq (x - 1), hpred, hhalf]
  rfl

theorem half_ne_zero_of_even {x : Counter} (h : x[0] = false) (hx : x ≠ 0) : x >>> 1 ≠ 0 := by
  have heven : x.toNat % 2 = 0 := by simpa [counter_bit_zero] using h
  bv_omega

/-! ### The merge stack never underflows (R166, R167) -/

/-- A merge of the `total`-th chunk over a stack of one entry for each set bit of `total - 1` finds every entry it pops, and
leaves one entry for each set bit of `total`. -/
theorem mergeLoop_completes (key : Cv) (mode : Mode) (st : List Cv) (total : Counter) (ccv : Cv) (htotal : total ≠ 0)
    (hst : st.length = popcount (total - 1)) :
    ∃ st', mergeLoop key mode st total ccv = some st' ∧ st'.length = popcount total := by
  cases hbit : total[0] with
  | true => exact ⟨_, mergeLoop_odd key mode st hbit ccv, by rw [List.length_cons, popcount_of_odd hbit, hst]⟩
  | false =>
    rw [popcount_pred_of_even hbit htotal] at hst
    match st with
    | [] => exact absurd hst.symm (Nat.succ_ne_zero _)
    | left :: rest =>
      rw [mergeLoop_even_cons key mode left rest hbit, popcount_of_even hbit]
      exact mergeLoop_completes key mode rest _ _ (half_ne_zero_of_even hbit htotal) (Nat.succ_inj.mp hst)

theorem merge_completes (s : State) (ccv : Cv) (total : Counter) (htotal : total ≠ 0)
    (hst : s.stack.length = popcount (total - 1)) :
    ∃ s', merge ccv total s = some s' ∧ s'.stack.length = popcount total := by
  obtain ⟨st, hloop, hlen⟩ :=
    mergeLoop_completes s.keyCv s.mode s.stack.reverse total ccv htotal (by rw [List.length_reverse, hst])
  exact ⟨{ s with stack := st.reverse }, by simp [merge, hloop], by rw [List.length_reverse, hlen]⟩

/-! ### The byte loop of `ABSORB` completes -/

/-- R56 item 4, of a hasher that runs: `BlockInv` gives it, and every byte keeps it. -/
def StackCounted (s : State) : Prop := s.stack.length = popcount s.chunkCtr

theorem rotateChunk_completes (c : Word) {s : State} (h : StackCounted s) :
    ∃ t, rotateChunk c s = .next t ∧ StackCounted t := by
  by_cases hfull : chunkLen s = Config.chunkLen
  · by_cases hwrap : s.chunkCtr + 1 = 0
    · exact ⟨chunkOverflowFault c s, by rw [rotateChunk, if_pos hfull, if_pos hwrap], by simpa [StackCounted] using h⟩
    · obtain ⟨s', hmerge, hlen⟩ := merge_completes s (chainingValue (chunkNode s)) (s.chunkCtr + 1) hwrap
        (by rw [BitVec.add_sub_cancel]; exact h)
      exact ⟨freshChunk (s.chunkCtr + 1) s', by rw [rotateChunk, if_pos hfull, if_neg hwrap, hmerge], hlen⟩
  · exact ⟨s, by rw [rotateChunk, if_neg hfull], h⟩

theorem bufferByte_stackCounted (x : Byte) {s : State} (h : StackCounted s) : StackCounted (bufferByte x s) := by
  unfold bufferByte
  split <;> exact h

theorem absorbByte_completes (c : Word) (x : Byte) {s : State} (h : StackCounted s) :
    ∃ t, absorbByte c x s = .next t ∧ StackCounted t := by
  obtain ⟨s', hrotate, hs'⟩ := rotateChunk_completes c h
  cases hf : s'.fault with
  | true => exact ⟨s', by simp [absorbByte, hrotate, hf], hs'⟩
  | false => exact ⟨bufferByte x s', by simp [absorbByte, hrotate, hf], bufferByte_stackCounted x hs'⟩

/-- The result is a next state. -/
def Completes (r : Result) : Prop := ∃ t, r = .next t

theorem absorbBytes_completes (c : Word) (bs : List Byte) {s : State} (h : StackCounted s) :
    Completes (absorbBytes c bs s) := by
  induction bs generalizing s with
  | nil => exact ⟨s, rfl⟩
  | cons x xs ih =>
    obtain ⟨s', hbyte, hs'⟩ := absorbByte_completes c x h
    cases hf : s'.fault with
    | true => exact ⟨s', by simp [absorbBytes, hbyte, hf]⟩
    | false => simpa [absorbBytes, hbyte, hf] using ih hs'

/-! ### Every command completes (R17) -/

theorem completes_next (t : State) : Completes (.next t) := ⟨t, rfl⟩

theorem completes_ite {p : Prop} [Decidable p] {a b : Result} (ha : p → Completes a) (hb : ¬p → Completes b) :
    Completes (if p then a else b) := by
  split
  · exact ha ‹_›
  · exact hb ‹_›

theorem unlessFaulted_completes {s : State} {r : Result} (h : s.fault = false → Completes r) :
    Completes (unlessFaulted s r) :=
  completes_ite (fun _ => completes_next s) fun hf => h (by simpa using hf)

theorem execAbsorb_completes (n : Nat) {s : State} (h : s.ready = true → s.fault = false → StackCounted s) :
    Completes (execAbsorb n s) :=
  unlessFaulted_completes fun hf =>
    completes_ite (fun _ => completes_next _) fun hr =>
      completes_ite (fun _ => completes_next _) fun _ => absorbBytes_completes _ _ (h (by simpa using hr) hf)

/-- Only `ABSORB` can reach the merge stack; every other command ends in a next state whatever its checks find. -/
theorem exec_completes (i : Instr) {s : State} (h : s.ready = true → s.fault = false → StackCounted s) :
    Completes (exec i s) := by
  cases i with
  | absorb n => exact execAbsorb_completes n h
  | reset => exact completes_next _
  | nop | initHash | initDeriveContext | compress | clearErr =>
    exact unlessFaulted_completes fun _ => completes_next _
  | initKeyed _ | finalize =>
    exact unlessFaulted_completes fun _ => completes_ite (fun _ => completes_next _) fun _ => completes_next _
  | initDeriveMaterial | squeeze =>
    exact unlessFaulted_completes fun _ => completes_ite (fun _ => completes_next _) fun _ =>
      completes_ite (fun _ => completes_next _) fun _ => completes_next _

theorem executeWord_completes (c : Word) {s : State} (h : s.ready = true → s.fault = false → StackCounted s) :
    Completes (executeWord c s) := by
  obtain ⟨_, -, hc⟩ | ⟨i, -, hc⟩ := executeWord_eq c s
  · rw [hc]
    exact unlessFaulted_completes fun _ => completes_next _
  · rw [hc]
    exact exec_completes i h

/-! ### Every step is safe -/

theorem Completes.safe {r : Result} (h : Completes r) : Safe r := by
  obtain ⟨t, rfl⟩ := h
  trivial

theorem hostRead_safe (bits : Nat) (o : Offset) (s : State) : Safe (hostRead bits o s) := by
  unfold hostRead
  split
  · trivial
  · split <;> trivial

theorem hostWrite_safe (bits : Nat) (o : Offset) {v : Word} {s : State} (h : Completes (executeWord v s)) :
    Safe (hostWrite bits o v s) := by
  unfold hostWrite
  split
  · trivial
  · split
    · trivial
    · trivial
    · exact h.safe

theorem serve_safe (e : HostEvent) {s : State} (h : ∀ c, Completes (executeWord c s)) : Safe (serve e s) := by
  cases e with
  | read bits o => exact hostRead_safe bits o s
  | write bits o v => exact hostWrite_safe bits o (h v)
  | resetInput => trivial

/-- Settles O60: the stack holds an entry for each set bit of the chunk count, so no merge of `ABSORB` underflows it. -/
theorem everyCommandCompletes : Obligations.EveryCommandCompletes := by
  intro s hinv
  refine ⟨fun c => executeWord_completes c hinv.stack_popcount, ?_⟩
  cases hp : s.pending with
  | nil => rw [step_nil hp]; trivial
  | cons e rest =>
    rw [step_cons hp]
    exact serve_safe e fun c => executeWord_completes c hinv.stack_popcount

end Sys2Proof.Machine
end

section
/-! # Proofs: the state (`10_state.md`)

The register map (R22) and what the registers read as (R24 to R39), what one host event can do (R62, R242), and what every
step keeps: the block's invariant (R53, R56), the currency of the output (R30) and the sticky status bits (R27 to R29). -/

namespace Sys2Proof.Machine

/-! ### The word a command is written as -/

theorem eq_encode_of_decode {c : Word} {i : Instr} (h : decode c = .ok i) : c = encode i := by
  obtain ⟨hrsv, hop, harg⟩ := decode_ok h
  rw [rsvField_eq] at hrsv
  rw [opcodeField_eq] at hop
  rw [argField_eq] at harg
  apply BitVec.eq_of_toNat_eq
  rw [encode_toNat, hop, harg]
  omega

theorem decode_encode {i : Instr} (h : i.wf = true) : decode (encode i) = .ok i := by
  rw [decode, rsvField_encode, opcodeField_encode, argField_encode]
  cases i <;> simp_all [decodeOpcode, noArg, opcodeOf, argOf, Instr.wf, Nat.mod_eq_of_lt]

/-! ### The register map (R22) -/

theorem arrayOffset_toNat {start k : Nat} (h : start + 4 * k < 4096) : (arrayOffset start k).toNat = start + 4 * k := by
  rw [arrayOffset, BitVec.toNat_ofNat, Nat.mod_eq_of_lt h]

theorem regAt_regOffset (r : Reg) : regAt (regOffset r) = some r := by
  cases r with
  | key k | cvIn k => revert k; decide
  | din k | dout k | mIn k | cmpOut k => revert k; decide
  | _ => rfl

/-- The register of word `w` of the window is the one whose offset is byte `4 w`. -/
theorem regOfWord_some {w : Nat} {r : Reg} (h : regOfWord w = some r) : (regOffset r).toNat = 4 * w := by
  unfold regOfWord at h
  split at h
  case h_17 =>
    split_ifs at h
    all_goals
      cases h
      simp only [regOffset, Fin.ofNat]
      rw [arrayOffset_toNat] <;> omega
  all_goals
    cases h
    rfl

theorem regOffset_of_regAt {o : Offset} {r : Reg} (h : regAt o = some r) : regOffset r = o := by
  unfold regAt at h
  split at h
  · apply BitVec.eq_of_toNat_eq
    rw [regOfWord_some h]
    omega
  · cases h


/-! ### The host port: what an access addresses, and what one event can do -/

theorem accessReg_regOffset (r : Reg) : accessReg 32 (regOffset r) = some r := regAt_regOffset r

theorem eq_regOffset_of_accessReg {bits : Nat} {o : Offset} {r : Reg} (h : accessReg bits o = some r) :
    bits = 32 ∧ o = regOffset r := by
  unfold accessReg at h
  split at h
  · exact ⟨‹_›, (regOffset_of_regAt h).symm⟩
  · cases h

theorem eq_cmd_of_accessOf_wo {r : Reg} (h : accessOf r = .wo) : r = .cmd := by
  cases r with
  | cmd => rfl
  | _ => cases h

/-- A write at `CMD` runs the word (R34). -/
theorem serve_cmd (c : Word) (s : State) : serve (.write 32 0x00C c) s = executeWord c s := rfl

theorem executeWord_of_ok {c : Word} {i : Instr} (h : decode c = .ok i) (s : State) : executeWord c s = exec i s := by
  simp [executeWord, h]

theorem executeWord_of_error {c : Word} {e : Illegal} (h : decode c = .error e) (s : State) :
    executeWord c s = illegalCommand c s := by
  simp [executeWord, h]

/-- What a word written to `CMD` can do (R242): the next states of `executeWord`, by what happened. -/
inductive WordStep (s : State) (c : Word) : State → Prop
  /-- R241: an illegal word is ignored while `S.fault = 1`. -/
  | ignored {e : Illegal} : decode c = .error e → s.fault = true → WordStep s c s
  /-- R232. -/
  | illegal {e : Illegal} : decode c = .error e → s.fault = false → WordStep s c (recordError .illegalCommand c s)
  /-- A command. -/
  | command {i : Instr} {t : State} : decode c = .ok i → ExecStep s i t → WordStep s c t

theorem executeWord_next {c : Word} {s t : State} (h : executeWord c s = .next t) : WordStep s c t := by
  obtain ⟨e, hd, heq⟩ | ⟨i, hd, heq⟩ := executeWord_eq c s <;> rw [heq] at h
  · obtain ⟨hf, rfl⟩ | ⟨hf, hraise⟩ := unlessFaulted_next h
    · exact .ignored hd hf
    · cases hraise
      exact .illegal hd hf
  · exact .command hd (exec_next h)

/-- What one host event can do: the next states of `serve`, by what happened. -/
inductive ServeStep (s : State) : HostEvent → State → Prop
  /-- A register read (R68). -/
  | read {r : Reg} {v : Word} : readReg r s = some v → ServeStep s (.read 32 (regOffset r)) (returnWord v s)
  /-- A write to an `RW` register (R68). -/
  | write {r : Reg} (v : Word) : accessOf r = .rw → ServeStep s (.write 32 (regOffset r) v) (writeReg r v s)
  /-- A write to `CMD` (R34). -/
  | word {c : Word} {t : State} : WordStep s c t → ServeStep s (.write 32 0x00C c) t
  /-- The reset input (R260). -/
  | reset : ServeStep s .resetInput (resetAction s)

theorem serve_next {e : HostEvent} {s t : State} (h : serve e s = .next t) : ServeStep s e t := by
  cases e with
  | read bits o =>
    obtain ⟨r, v, hr, hv, rfl⟩ := hostRead_next h
    obtain ⟨rfl, rfl⟩ := eq_regOffset_of_accessReg hr
    exact .read hv
  | write bits o v =>
    obtain ⟨r, hr, hwrite⟩ := hostWrite_next h
    obtain ⟨rfl, rfl⟩ := eq_regOffset_of_accessReg hr
    obtain ⟨hrw, rfl⟩ | ⟨hwo, hexec⟩ := hwrite
    · exact .write v hrw
    · obtain rfl := eq_cmd_of_accessOf_wo hwo
      exact .word (executeWord_next hexec)
  | resetInput =>
    cases h
    exact .reset

/-- A step of a machine with nothing waiting changes nothing; else it serves the first access. -/
theorem step_next {s t : State} (h : step s = .next t) :
    t = s ∨ ∃ e rest, s.pending = e :: rest ∧ ServeStep { s with pending := rest } e t := by
  cases hp : s.pending with
  | nil =>
    rw [step_nil hp] at h
    cases h
    exact .inl rfl
  | cons e rest =>
    rw [step_cons hp] at h
    exact .inr ⟨e, rest, rfl, serve_next h⟩

/-! ### What a host access leaves unchanged -/

/-- `t` differs from `s` in the registers the host writes and in the host port's own two fields only. -/
def HostFrame (s t : State) : Prop :=
  t = { s with
    key := t.key, din := t.din, cvIn := t.cvIn, tLo := t.tLo, tHi := t.tHi, bLen := t.bLen, dFlags := t.dFlags, mIn := t.mIn,
    pending := t.pending, returned := t.returned }

theorem writeReg_hostFrame (r : Reg) (v : Word) (s : State) : HostFrame s (writeReg r v s) := by
  cases r <;> rfl

theorem returnWord_hostFrame (v : Word) (s : State) : HostFrame s (returnWord v s) := rfl

theorem pending_hostFrame (es : List HostEvent) (s : State) : HostFrame s { s with pending := es } := rfl

/-! ### The block's invariant (R56, R53) -/

theorem Rejects.code_ne_none {i : Instr} {s : State} {e : ErrCode} (h : Rejects i s e) : e ≠ .none := by
  rintro rfl
  cases i <;> simp [Rejects] at h

theorem Inits.mode_ne_none {i : Instr} {s : State} {k : Cv} {m : Mode} (h : Inits i s k m) : m ≠ .none := by
  rintro rfl
  cases i <;> simp [Inits] at h

theorem popcount_le (x : Counter) : popcount x ≤ 64 :=
  List.countP_le_length.trans_eq List.length_range

theorem popcount_zero : popcount 0 = 0 := by decide

theorem HostFrame.blockInv {s t : State} (hframe : HostFrame s t) (h : BlockInv s) : BlockInv t := by
  rw [hframe]
  exact { h with }

theorem reset_blockInv : BlockInv State.reset := by
  constructor <;> decide

theorem resetAction_blockInv (s : State) : BlockInv (resetAction s) :=
  { reset_blockInv with }

theorem recordError_blockInv {e : ErrCode} (he : e ≠ .none) (c : Word) {s : State} (h : BlockInv s) :
    BlockInv (recordError e c s) := by
  cases herr : s.err with
  | true => rwa [recordError_of_err herr]
  | false =>
    rw [recordError_of_clear herr]
    exact { h with no_error_record := nofun, error_recorded := fun _ => he }

theorem chunkOverflowFault_blockInv (c : Word) {s : State} (h : BlockInv s) : BlockInv (chunkOverflowFault c s) :=
  { recordError_blockInv (by decide) c h with stack_popcount := nofun }

theorem clearRecord_blockInv {s : State} (h : BlockInv s) : BlockInv (clearRecord s) :=
  { h with no_error_record := fun _ => ⟨rfl, rfl⟩, error_recorded := nofun }

/-- A chunk begun on a stack that counts the chunks before it. -/
theorem freshChunk_blockInv {k : Counter} {st : List Cv} (hlen : st.length = popcount k) {s : State} (h : BlockInv s) :
    BlockInv (freshChunk k { s with stack := st }) :=
  { h with
    blocks_done_le := Nat.zero_le _
    block_started := nofun
    chunk_le := Nat.zero_le _
    stack_popcount := fun _ _ => hlen
    stack_le := hlen.trans_le (popcount_le k)
    block_tail := fun i _ => by simp }

theorem hasherInit_blockInv {k : Cv} {m : Mode} (hm : m ≠ .none) {s : State} (h : BlockInv s) :
    BlockInv (hasherInit k m s) :=
  { freshChunk_blockInv (st := []) popcount_zero.symm h with
    ready_iff_mode := ⟨nofun, fun hnone => absurd hnone hm⟩
    stack_popcount := fun _ _ => popcount_zero.symm }

/-- Storing a byte in an accumulator whose block has room and zeros past its bytes. -/
theorem storeByte_blockInv (x : Byte) {s : State} (h : BlockInv s) (cv : Cv) (block : Vector Byte 64) (len : Fin 65)
    (done : Fin 16) (hroom : len.val < 64) (htail : ∀ i : Fin 64, len.val ≤ i.val → block[i] = 0) :
    BlockInv (storeByte x { s with chunkCv := cv, block := block, blockLen := len, blocksDone := done }) := by
  have hlen : (Fin.ofNat 65 (len.val + 1)).val = len.val + 1 := Nat.mod_eq_of_lt (by omega)
  have hdone := done.isLt
  refine { h with
    blocks_done_le := Nat.le_of_lt_succ hdone
    block_started := fun _ => by simp only [storeByte_blockLen]; omega
    chunk_le := by simp only [storeByte_blockLen, storeByte_blocksDone]; omega
    block_tail := fun i hi => ?_ }
  rw [storeByte_blockLen, hlen] at hi
  have hne : len.val ≠ i.val := by omega
  simpa [Vector.getElem_setIfInBounds, hne] using htail i (by omega)

theorem bufferByte_blockInv (x : Byte) {s : State} (h : BlockInv s) : BlockInv (bufferByte x s) := by
  have hle := s.blockLen.isLt
  unfold bufferByte
  split
  · exact storeByte_blockInv x h _ _ 0 _ (by decide) fun i _ => by simp
  · have hroom : s.blockLen.val ≠ 64 := ‹_›
    exact storeByte_blockInv x h _ _ s.blockLen _ (by omega) h.block_tail

theorem rotateChunk_blockInv {c : Word} {s t : State} (h : BlockInv s) (hready : s.ready = true) (hrun : s.fault = false)
    (hrotate : rotateChunk c s = .next t) : BlockInv t := by
  obtain ⟨-, rfl⟩ | ⟨-, -, rfl⟩ | ⟨-, hwrap, s', hmerge, rfl⟩ := rotateChunk_next hrotate
  · exact h
  · exact chunkOverflowFault_blockInv c h
  · obtain ⟨s'', hmerge', hlen⟩ := merge_completes s (chainingValue (chunkNode s)) (s.chunkCtr + 1) hwrap
      (by rw [BitVec.add_sub_cancel]; exact h.stack_popcount hready hrun)
    obtain rfl := Option.some.inj (hmerge'.symm.trans hmerge)
    obtain ⟨st, -, rfl⟩ := merge_some hmerge
    exact freshChunk_blockInv hlen h

theorem AbsorbFrame.ready {s t : State} (h : AbsorbFrame s t) : t.ready = s.ready := by rw [h]

theorem AbsorbFrame.outValid {s t : State} (h : AbsorbFrame s t) : t.outValid = s.outValid := by rw [h]

theorem absorbByte_blockInv {c : Word} {x : Byte} {s t : State} (h : BlockInv s) (hready : s.ready = true)
    (hrun : s.fault = false) (hbyte : absorbByte c x s = .next t) : BlockInv t := by
  obtain ⟨s', hrotate, rfl⟩ := absorbByte_next hbyte
  have hs' := rotateChunk_blockInv h hready hrun hrotate
  split
  · exact hs'
  · exact bufferByte_blockInv x hs'

theorem absorbBytes_blockInv {c : Word} {bs : List Byte} {s t : State} (h : BlockInv s) (hready : s.ready = true)
    (hrun : s.fault = false) (hbytes : absorbBytes c bs s = .next t) : BlockInv t := by
  induction bs generalizing s with
  | nil =>
    cases hbytes
    exact h
  | cons x xs ih =>
    obtain ⟨s', hbyte, hrest⟩ := absorbBytes_cons_next hbytes
    have hs' := absorbByte_blockInv h hready hrun hbyte
    obtain ⟨-, rfl⟩ | ⟨hrun', hrest⟩ := hrest
    · exact hs'
    · exact ih hs' ((absorbByte_frame hbyte).ready.trans hready) hrun' hrest

theorem ExecStep.blockInv {i : Instr} {s t : State} (hstep : ExecStep s i t) (h : BlockInv s) : BlockInv t := by
  cases hstep with
  | ignored | nop => exact h
  | reset => exact resetAction_blockInv s
  | rejected _ hrej => exact recordError_blockInv hrej.code_ne_none _ h
  | inited _ hinit => exact hasherInit_blockInv hinit.mode_ne_none h
  | absorbed hrun hready _ hbytes =>
    exact absorbBytes_blockInv (s := { s with outValid := false }) { h with } hready hrun hbytes
  | finalized | squeezed | compressed => exact { h with }
  | cleared => exact clearRecord_blockInv h

theorem WordStep.blockInv {c : Word} {s t : State} (hstep : WordStep s c t) (h : BlockInv s) : BlockInv t := by
  cases hstep with
  | ignored => exact h
  | illegal => exact recordError_blockInv (by decide) c h
  | command _ hexec => exact hexec.blockInv h

theorem ServeStep.blockInv {e : HostEvent} {s t : State} (hstep : ServeStep s e t) (h : BlockInv s) : BlockInv t := by
  cases hstep with
  | read => exact (returnWord_hostFrame _ s).blockInv h
  | write v _ => exact (writeReg_hostFrame _ v s).blockInv h
  | word hword => exact hword.blockInv h
  | reset => exact resetAction_blockInv s

/-- Settles O57: by what a step can do, down to the byte loop of `ABSORB`, whose merges keep the stack's count. -/
theorem stepKeepsTheBlockInvariant : Obligations.StepKeepsTheBlockInvariant := by
  intro s t h hstep
  obtain rfl | ⟨e, rest, -, hserve⟩ := step_next hstep
  · exact h
  · exact hserve.blockInv ((pending_hostFrame rest s).blockInv h)

/-! ### The currency of the output (R30) -/

theorem outputCurrent_of_invalid {s : State} (h : s.outValid = false) : OutputCurrent s :=
  ⟨fun hv => by simp [h] at hv, fun hv => by simp [h] at hv⟩

theorem HostFrame.outputCurrent {s t : State} (hframe : HostFrame s t) (h : OutputCurrent s) : OutputCurrent t := by
  rw [hframe]
  exact { h with }

theorem recordError_outputCurrent (e : ErrCode) (c : Word) {s : State} (h : OutputCurrent s) :
    OutputCurrent (recordError e c s) := by
  cases herr : s.err with
  | true => rwa [recordError_of_err herr]
  | false =>
    rw [recordError_of_clear herr]
    exact { h with }

/-- Only `ABSORB` and the commands that begin a hasher change what the root is made of, and they clear `S.out_valid`. -/
theorem ExecStep.outputCurrent {i : Instr} {s t : State} (hstep : ExecStep s i t) (h : OutputCurrent s) :
    OutputCurrent t := by
  cases hstep with
  | ignored | nop => exact h
  | reset => exact outputCurrent_of_invalid rfl
  | rejected => exact recordError_outputCurrent _ _ h
  | inited => exact outputCurrent_of_invalid rfl
  | absorbed _ _ _ hbytes => exact outputCurrent_of_invalid (absorbBytes_frame hbytes).outValid
  | finalized _ hready => exact ⟨fun _ => hready, fun _ => rfl⟩
  | squeezed | compressed | cleared => exact { h with }

theorem WordStep.outputCurrent {c : Word} {s t : State} (hstep : WordStep s c t) (h : OutputCurrent s) :
    OutputCurrent t := by
  cases hstep with
  | ignored => exact h
  | illegal => exact recordError_outputCurrent _ c h
  | command _ hexec => exact hexec.outputCurrent h

theorem ServeStep.outputCurrent {e : HostEvent} {s t : State} (hstep : ServeStep s e t) (h : OutputCurrent s) :
    OutputCurrent t := by
  cases hstep with
  | read => exact (returnWord_hostFrame _ s).outputCurrent h
  | write v _ => exact (writeReg_hostFrame _ v s).outputCurrent h
  | word hword => exact hword.outputCurrent h
  | reset => exact outputCurrent_of_invalid rfl

/-- Settles O58: a step that changes what the root is made of clears `S.out_valid`, and `FINALIZE`, which sets it, captures the
root. -/
theorem stepKeepsTheOutputCurrent : Obligations.StepKeepsTheOutputCurrent := by
  intro s t h hstep
  obtain rfl | ⟨e, rest, -, hserve⟩ := step_next hstep
  · exact h
  · exact hserve.outputCurrent ((pending_hostFrame rest s).outputCurrent h)

/-! ### Reset and reachable states -/

/-- Settles O56: at reset `S.out_valid` is 0, so the output is current with nothing captured. -/
theorem resetMeetsTheInvariants : Obligations.ResetMeetsTheInvariants :=
  ⟨reset_blockInv, outputCurrent_of_invalid rfl⟩

theorem Reachable.blockInv {s : State} (h : Reachable s) : BlockInv s := by
  induction h with
  | reset events => exact (pending_hostFrame events _).blockInv reset_blockInv
  | step _ hstep ih => exact stepKeepsTheBlockInvariant _ _ ih hstep
  | issue events _ ih => exact (pending_hostFrame _ _).blockInv ih

theorem errBits_bounds {e : ErrCode} (h : e ≠ .none) : 1 ≤ (errBits e).toNat ∧ (errBits e).toNat ≤ 7 := by
  cases e <;> simp_all [errBits]

/-- Settles O59: the invariant holds at reset and every step keeps it. -/
theorem reachableStatesMeetTheInvariants : Obligations.ReachableStatesMeetTheInvariants := by
  intro s hs
  have h := hs.blockInv
  refine ⟨h.ready_iff_mode, h.blocks_done_le, h.block_started, h.chunk_le, h.stack_popcount, h.stack_le, fun herr => ?_,
    fun herr => errBits_bounds (h.error_recorded herr)⟩
  obtain ⟨hcode, hcmd⟩ := h.no_error_record herr
  exact ⟨by rw [hcode]; rfl, hcmd⟩

/-! ### The registers: their map, their access classes and what they read as -/

/-- Settles O11: the map and its inverse are those of `regAt_regOffset` and `regOffset_of_regAt`. -/
theorem registerMapIsExact : Obligations.RegisterMapIsExact := by
  refine ⟨fun r => ?offset, fun r => ?access,
    fun s => ⟨fun _ => ⟨rfl, rfl⟩, fun _ => ⟨rfl, rfl, rfl, rfl⟩, rfl, rfl, rfl, rfl⟩, regAt_regOffset,
    fun _ _ => regOffset_of_regAt, Nat.mul_mod_right _ _, fun o => ?there, fun a o h => ?back⟩
  case offset =>
    cases r with
    | key k | din k | dout k | cvIn k | mIn k | cmpOut k => exact arrayOffset_toNat (by omega)
    | _ => rfl
  case access => cases r <;> simp [accessOf]
  case there =>
    have ho : o.toNat < 4096 := o.isLt
    simp [Config.windowOffset, Config.hostAddress, Config.windowLen, ho]
  case back =>
    unfold Config.windowOffset at h
    split at h
    case isFalse => cases h
    case isTrue hin =>
      cases h
      simp only [Config.windowLen] at hin
      rw [Config.hostAddress, BitVec.toNat_ofNat, Nat.mod_eq_of_lt (by omega)]
      omega

theorem hostRead_of_readReg {r : Reg} {v : Word} {s : State} (h : readReg r s = some v) :
    hostRead 32 (regOffset r) s = .next (returnWord v s) := by
  simp only [hostRead, accessReg_regOffset, h]

theorem readReg_some_of_readable {r : Reg} (h : accessOf r ≠ .wo) (s : State) : ∃ v, readReg r s = some v := by
  cases r with
  | cmd => exact absurd rfl h
  | _ => exact ⟨_, rfl⟩

theorem hostWrite_ro {r : Reg} (h : accessOf r = .ro) (v : Word) (s : State) :
    hostWrite 32 (regOffset r) v s = .fault .busError := by
  simp only [hostWrite, accessReg_regOffset, h]

theorem hostWrite_rw {r : Reg} (h : accessOf r = .rw) (v : Word) (s : State) :
    hostWrite 32 (regOffset r) v s = .next (writeReg r v s) := by
  simp only [hostWrite, accessReg_regOffset, h]

/-- R45: `B_LEN` keeps bits 7:0 of what is written. -/
theorem setWidth_byte (v : Word) : (v.setWidth 8).setWidth 32 = v &&& 0xFF := by
  apply BitVec.eq_of_toNat_eq
  have hlow : v.toNat &&& 255 = v.toNat % 2 ^ 8 := Nat.and_two_pow_sub_one_eq_mod v.toNat 8
  rw [BitVec.toNat_and, show (0xFF : Word).toNat = 255 from rfl, hlow, BitVec.toNat_setWidth, BitVec.toNat_setWidth]
  omega

theorem readReg_writeReg_self {r : Reg} (h : accessOf r = .rw) (v : Word) (s : State) :
    readReg r (writeReg r v s) = some (if r = .bLen then v &&& 0xFF else v) := by
  cases r with
  | key k | din k | cvIn k | mIn k => simp [readReg, writeReg]
  | tLo | tHi | dFlags => rfl
  | bLen => exact congrArg some (setWidth_byte v)
  | _ => cases h

/-- Settles O9: one rule of the host port for each access class, and what a written register reads as. -/
theorem accessClasses : Obligations.AccessClasses := by
  refine ⟨fun r s h => ?_, fun r s h => ?_, fun r v s h => hostWrite_ro h v s, fun r v s h => ?_⟩
  · obtain ⟨v, hv⟩ := readReg_some_of_readable h s
    exact ⟨v, hv, hostRead_of_readReg hv⟩
  · obtain rfl := eq_cmd_of_accessOf_wo h
    exact ⟨rfl, fun v hinv => executeWord_completes v hinv.stack_popcount⟩
  · exact ⟨writeReg r v s, hostWrite_rw h v s, readReg_writeReg_self h v s, by cases r <;> rfl⟩

/-- Settles O13: every readable register but the two constants shows a piece of state that R58 resets to zero. -/
theorem resetReads : Obligations.ResetReads := by
  refine ⟨rfl, rfl, fun r hid hconfig hcmd => ?_⟩
  cases r with
  | id => exact absurd rfl hid
  | config => exact absurd rfl hconfig
  | cmd => exact absurd rfl hcmd
  | key k | din k | dout k | cvIn k | mIn k | cmpOut k => simp [readReg, State.reset]
  | _ => rfl

/-- Settles O14: the two reads take nothing from the state, and both registers are of class `RO`. -/
theorem constantRegisters : Obligations.ConstantRegisters := by
  intro s
  refine ⟨rfl, rfl, by decide, by decide, by decide, fun v => ⟨?_, ?_⟩⟩
  · exact hostWrite_ro (r := .id) rfl v s
  · exact hostWrite_ro (r := .config) rfl v s

/-! ### `STATUS` (R26) -/

/-- A status bit placed at bit `k` is that bit and no other. -/
theorem bitWord_shiftLeft_getLsbD (b : Bool) (k : Nat) {i : Nat} (hi : i < 32) :
    (bitWord b <<< k).getLsbD i = (decide (i = k) && b) := by
  cases b with
  | false => simp [bitWord]
  | true =>
    rw [Bool.eq_iff_iff]
    simp [bitWord, hi]
    omega

/-- R26: bit by bit, `MODE` from bit 16, `ERRCODE` from bit 8, and the four status bits. -/
theorem statusWord_getLsbD (s : State) {i : Nat} (hi : i < 32) :
    (statusWord s).getLsbD i =
      (decide (16 ≤ i) && (modeBits s.mode).getLsbD (i - 16) || decide (8 ≤ i) && (errBits s.errcode).getLsbD (i - 8) ||
        decide (i = 3) && s.outValid || decide (i = 2) && s.fault || decide (i = 1) && s.err ||
        decide (i = 0) && s.ready) := by
  have hready := bitWord_shiftLeft_getLsbD s.ready 0 hi
  rw [BitVec.shiftLeft_zero] at hready
  have hfield (k j : Nat) (hj : j = i - k) : j < 32 := by omega
  simp only [statusWord, BitVec.getLsbD_or, bitWord_shiftLeft_getLsbD _ _ hi, hready, BitVec.getLsbD_shiftLeft,
    BitVec.getLsbD_setWidth, hi, hfield _ _ rfl, decide_true, Bool.true_and, Nat.not_lt, ← decide_not]

/-- Settles O15: each field is read off the bits of the word. -/
theorem statusLayout : Obligations.StatusLayout := by
  refine ⟨by decide, by decide, rfl, fun s => ⟨_, rfl, by decide⟩, fun s => ⟨statusWord s, rfl, ?_⟩⟩
  refine ⟨?ready, ?err, ?fault, ?outValid, ?_, ?_, ?_, ?_, ?_⟩
  case ready | err | fault | outValid =>
    rw [statusWord_getLsbD s (by decide)]
    simp
  all_goals
    apply BitVec.eq_of_getLsbD_eq
    intro j hj
    rw [BitVec.getLsbD_extractLsb', statusWord_getLsbD s (by omega)]
    grind

/-! ### The views of the hidden state (R33, R35 to R39) -/

theorem high32_append_low32 (t : Counter) : high32 t ++ low32 t = t := by
  rw [high32, low32, BitVec.extractLsb'_append_extractLsb'_eq_extractLsb' (show 32 = 0 + 32 from rfl)]
  exact BitVec.extractLsb'_eq_self

theorem mflags_mem (m : Mode) : mflags m ∈ [(0x00 : Word), 0x10, 0x20, 0x40] := by
  cases m <;> decide

/-- Settles O16: the lengths fit their registers by the bounds of the invariant. -/
theorem progressViews : Obligations.ProgressViews := by
  intro s h
  have hchunk := h.chunk_le
  have hstack := h.stack_le
  have hchunkLen : (BitVec.ofNat 32 (chunkLen s)).toNat = 64 * s.blocksDone.val + s.blockLen.val := by
    rw [BitVec.toNat_ofNat, Nat.mod_eq_of_lt]
    · rfl
    · simp only [chunkLen, Config.blockLen]
      omega
  have hdepth : (BitVec.ofNat 32 s.stack.length).toNat = s.stack.length :=
    Nat.mod_eq_of_lt (by omega)
  exact ⟨⟨_, _, rfl, rfl, high32_append_low32 _⟩, ⟨_, _, rfl, rfl, high32_append_low32 _⟩,
    ⟨_, rfl, hchunkLen, hchunkLen.trans_le hchunk⟩, ⟨_, rfl, hdepth, hdepth.trans_le hstack⟩,
    ⟨_, rfl, rfl, mflags_mem _⟩, rfl⟩

/-! ### Commands: the step, the operand of `ABSORB`, the output registers -/

/-- Settles O7: the step serves the write at `CMD`, whose word decodes to the command. -/
theorem stepRunsTheDecodedCommand : Obligations.StepRunsTheDecodedCommand := by
  refine ⟨fun s rest c i hp hd => ?_, fun s i hwf => ?_, fun s => step_nil⟩
  · rw [step_cons hp, serve_cmd, executeWord_of_ok hd]
  · have hword : BitVec.ofNat 32 ((encode i).toNat % 2 ^ 32) = encode i := by
      rw [Nat.mod_eq_of_lt (encode i).isLt, BitVec.ofNat_toNat, BitVec.setWidth_eq]
    rw [step_cons (s := s.withFetchWord 32 (encode i).toNat) rfl, serve_cmd, hword, executeWord_of_ok (decode_encode hwf)]
    rfl

theorem absorbOperand_length {n : Nat} (h : n ≤ 64) (s : State) : (absorbOperand n s).length = n := by
  rw [absorbOperand, List.length_take, bytesLe_length, Vector.length_toList]
  omega

/-- Settles O44: the bytes of the operand are the first bytes of the words of `DIN`. -/
theorem inputByteLanes : Obligations.InputByteLanes := by
  intro s n j hn hj
  have hword : j / 4 < 16 := by omega
  refine ⟨absorbOperand_length hn s, hword, ?_⟩
  rw [absorbOperand, List.getElem?_take_of_lt hj, bytesLe_getElem?, Vector.getElem?_toList,
    Vector.getElem?_eq_getElem hword]
  rfl

theorem AbsorbFrame.dout {s t : State} (h : AbsorbFrame s t) : t.dout = s.dout := by rw [h]

theorem AbsorbFrame.cmpOut {s t : State} (h : AbsorbFrame s t) : t.cmpOut = s.cmpOut := by rw [h]

/-- R42, R48: what each command makes of the two output registers. -/
theorem ExecStep.outputRegisters {i : Instr} {s t : State} (hstep : ExecStep s i t) (hi : i ≠ .reset) :
    (t.dout = s.dout ∨ i = .squeeze ∧ t.outCtr = s.outCtr + 1) ∧ (t.cmpOut = s.cmpOut ∨ i = .compress) := by
  cases hstep with
  | ignored | nop | inited | finalized | cleared => exact ⟨.inl rfl, .inl rfl⟩
  | reset => exact absurd rfl hi
  | rejected => exact ⟨.inl (recordError_dout ..), .inl (recordError_cmpOut ..)⟩
  | absorbed _ _ _ hbytes => exact ⟨.inl (absorbBytes_frame hbytes).dout, .inl (absorbBytes_frame hbytes).cmpOut⟩
  | squeezed => exact ⟨.inr ⟨rfl, rfl⟩, .inl rfl⟩
  | compressed => exact ⟨.inl rfl, .inr rfl⟩

/-- Settles O24: an illegal word writes neither register, and a command is known by its word. -/
theorem outputRegisterWriters : Obligations.OutputRegisterWriters := by
  intro c s t hc h
  cases executeWord_next h with
  | ignored => exact ⟨fun _ => rfl, fun _ => rfl, fun hne => absurd rfl hne⟩
  | illegal =>
    exact ⟨fun _ => recordError_dout .., fun _ => recordError_cmpOut .., fun hne => absurd (recordError_dout ..) hne⟩
  | command hd hexec =>
    obtain rfl := eq_encode_of_decode hd
    obtain ⟨hdout, hcmp⟩ := hexec.outputRegisters fun hreset => hc (congrArg encode hreset)
    refine ⟨fun hne => ?_, fun hne => ?_, fun hne => ?_⟩
    · exact hdout.resolve_right fun hsq => hne (congrArg encode hsq.1)
    · exact hcmp.resolve_right fun hco => hne (congrArg encode hco)
    · exact (hdout.resolve_left hne).2

/-! ### The overflow fault and the error record in the byte loop of `ABSORB` (R135, R168) -/

/-- The error record of `t` is that of `s`. -/
def RecordKept (s t : State) : Prop := t.err = s.err ∧ t.errcode = s.errcode ∧ t.errCmd = s.errCmd

theorem RecordKept.trans {s t u : State} (h : RecordKept s t) (k : RecordKept t u) : RecordKept s u := by
  obtain ⟨herr, hcode, hcmd⟩ := h
  obtain ⟨kerr, kcode, kcmd⟩ := k
  exact ⟨kerr.trans herr, kcode.trans hcode, kcmd.trans hcmd⟩

theorem bufferByte_recordKept (x : Byte) (s : State) : RecordKept s (bufferByte x s) := by
  unfold bufferByte
  split <;> exact ⟨rfl, rfl, rfl⟩

/-- A chunk is full and the count of completed chunks would wrap (R168). -/
def AtOverflow (s : State) : Prop := chunkLen s = 1024 ∧ s.chunkCtr + 1 = 0

theorem rotateChunk_of_atOverflow {s : State} (h : AtOverflow s) (c : Word) :
    rotateChunk c s = .next (chunkOverflowFault c s) := by
  obtain ⟨hfull, hwrap⟩ := h
  rw [rotateChunk, Config.chunkLen, if_pos hfull, if_pos hwrap]

/-- A rotation either takes the overflow fault or touches neither the record nor `S.fault`. -/
theorem rotateChunk_record {c : Word} {s t : State} (h : rotateChunk c s = .next t) :
    (t.fault = s.fault ∧ RecordKept s t) ∨ (AtOverflow s ∧ t = chunkOverflowFault c s) := by
  obtain ⟨-, rfl⟩ | ⟨hfull, hwrap, rfl⟩ | ⟨-, -, s', hmerge, rfl⟩ := rotateChunk_next h
  · exact .inl ⟨rfl, rfl, rfl, rfl⟩
  · exact .inr ⟨⟨hfull, hwrap⟩, rfl⟩
  · obtain ⟨st, -, rfl⟩ := merge_some hmerge
    exact .inl ⟨rfl, rfl, rfl, rfl⟩

theorem absorbByte_record {c : Word} {x : Byte} {s t : State} (hrun : s.fault = false) (h : absorbByte c x s = .next t) :
    (t.fault = false ∧ RecordKept s t) ∨ (AtOverflow s ∧ t = chunkOverflowFault c s) := by
  obtain ⟨s', hrotate, rfl⟩ := absorbByte_next h
  obtain ⟨hfault, hrec⟩ | ⟨hover, rfl⟩ := rotateChunk_record hrotate
  · have hrun' : s'.fault = false := hfault.trans hrun
    rw [hrun']
    exact .inl ⟨(bufferByte_fault x s').trans hrun', hrec.trans (bufferByte_recordKept x s')⟩
  · exact .inr ⟨hover, by simp⟩

/-- The byte loop either absorbs every byte and keeps the record, or takes the overflow fault at one of them, in a state that
still holds the record of the first. -/
theorem absorbBytes_record {c : Word} {bs : List Byte} {s t : State} (hrun : s.fault = false)
    (h : absorbBytes c bs s = .next t) :
    (t.fault = false ∧ RecordKept s t) ∨
    (bs ≠ [] ∧ ∃ u, RecordKept s u ∧ AtOverflow u ∧ t = chunkOverflowFault c u) := by
  induction bs generalizing s with
  | nil =>
    cases h
    exact .inl ⟨hrun, rfl, rfl, rfl⟩
  | cons x xs ih =>
    obtain ⟨s', hbyte, hrest⟩ := absorbBytes_cons_next h
    obtain ⟨hrun', hrec⟩ | ⟨hover, rfl⟩ := absorbByte_record hrun hbyte
    · obtain ⟨hfault, -⟩ | ⟨-, hrest⟩ := hrest
      · rw [hrun'] at hfault
        cases hfault
      · obtain ⟨hf, hrec'⟩ | ⟨-, u, hrec', hu⟩ := ih hrun' hrest
        · exact .inl ⟨hf, hrec.trans hrec'⟩
        · exact .inr ⟨List.cons_ne_nil x xs, u, hrec.trans hrec', hu⟩
    · obtain ⟨-, rfl⟩ | ⟨hfault, -⟩ := hrest
      · exact .inr ⟨List.cons_ne_nil x xs, s, ⟨rfl, rfl, rfl⟩, hover, rfl⟩
      · rw [chunkOverflowFault_fault] at hfault
        cases hfault

theorem chunkOverflowFault_err (c : Word) (s : State) : (chunkOverflowFault c s).err = true := recordError_err ..

/-- The byte loop never clears `S.err`, and without the fault never sets it. -/
theorem absorbBytes_err {c : Word} {bs : List Byte} {s t : State} (hrun : s.fault = false)
    (h : absorbBytes c bs s = .next t) : t.err = (s.err || t.fault) := by
  obtain ⟨hf, herr, -, -⟩ | ⟨-, u, -, -, rfl⟩ := absorbBytes_record hrun h
  · rw [herr, hf, Bool.or_false]
  · rw [chunkOverflowFault_err, chunkOverflowFault_fault, Bool.or_true]

theorem absorbBytes_of_atOverflow {s : State} (h : AtOverflow s) (c : Word) (x : Byte) (xs : List Byte) :
    absorbBytes c (x :: xs) s = .next (chunkOverflowFault c s) := by
  simp [absorbBytes, absorbByte, rotateChunk_of_atOverflow h]

/-! ### Commands that are rejected and commands that begin a hasher -/

theorem exec_of_rejects {i : Instr} {s : State} {e : ErrCode} (hrun : s.fault = false) (h : Rejects i s e) :
    exec i s = .next (recordError e (encode i) s) := by
  cases i with
  | initKeyed a =>
    obtain ⟨ha, rfl⟩ := h
    rw [exec, execInitKeyed, unlessFaulted_of_running hrun, Config.keyLen, if_pos ha, raiseError]
  | initDeriveMaterial =>
    obtain ⟨hready, rfl⟩ | ⟨hready, hmode, rfl⟩ := h <;>
      simp [exec, execInitDeriveMaterial, unlessFaulted_of_running hrun, raiseError, *]
  | absorb n =>
    obtain ⟨hready, rfl⟩ | ⟨hready, hn, rfl⟩ := h <;>
      simp [exec, execAbsorb, unlessFaulted_of_running hrun, raiseError, Config.absorbMax, *]
  | finalize =>
    obtain ⟨hready, rfl⟩ := h
    simp [exec, execFinalize, unlessFaulted_of_running hrun, raiseError, hready]
  | squeeze =>
    obtain ⟨hready, rfl⟩ | ⟨hready, hvalid, rfl⟩ := h <;>
      simp [exec, execSqueeze, unlessFaulted_of_running hrun, raiseError, *]
  | _ => exact h.elim

theorem exec_of_inits {i : Instr} {s : State} {k : Cv} {m : Mode} (hrun : s.fault = false) (h : Inits i s k m) :
    exec i s = .next (hasherInit k m s) := by
  cases i with
  | initHash | initDeriveContext =>
    obtain ⟨rfl, rfl⟩ := h
    exact unlessFaulted_of_running hrun _
  | initKeyed a =>
    obtain ⟨rfl, rfl, rfl⟩ := h
    exact unlessFaulted_of_running hrun _
  | initDeriveMaterial =>
    obtain ⟨hready, hmode, rfl, rfl⟩ := h
    simp [exec, execInitDeriveMaterial, unlessFaulted_of_running hrun, hready, hmode]
  | _ => exact h.elim

theorem exec_absorb_of_running {n : Nat} {s : State} (hrun : s.fault = false) (hready : s.ready = true) (hn : n ≤ 64) :
    exec (.absorb n) s = absorbBytes (encode (.absorb n)) (absorbOperand n s) { s with outValid := false } := by
  simp [exec, execAbsorb, unlessFaulted_of_running hrun, hready, Config.absorbMax, hn]

/-- Command `i` fails on its way from `s` to `t`: a check of R239 rejects it, or it is an `ABSORB` that takes the overflow
fault. -/
def Fails (i : Instr) (s t : State) : Prop := (∃ e, Rejects i s e) ∨ (∃ n, i = .absorb n) ∧ t.fault = true

theorem fails_initDeriveMaterial (s t : State) :
    Fails .initDeriveMaterial s t ↔ s.ready = false ∨ s.mode ≠ .deriveContext := by
  cases h : s.ready <;> simp [Fails, Rejects, h]

theorem fails_absorb (n : Nat) (s t : State) : Fails (.absorb n) s t ↔ s.ready = false ∨ 64 < n ∨ t.fault = true := by
  cases h : s.ready <;> simp [Fails, Rejects, h]

theorem fails_squeeze (s t : State) : Fails .squeeze s t ↔ s.ready = false ∨ s.outValid = false := by
  cases h : s.ready <;> simp [Fails, Rejects, h]

/-! ### What one event can do to `READY`, `ERR` and `FAULT` (R27 to R29) -/

/-- A failed command sets `S.err`. -/
theorem err_of_fails {i : Instr} {s t : State} (hrun : s.fault = false) (h : exec i s = .next t) (hfail : Fails i s t) :
    t.err = true := by
  obtain ⟨e, hrej⟩ | ⟨⟨n, rfl⟩, hfault⟩ := hfail
  · rw [exec_of_rejects hrun hrej] at h
    cases h
    exact recordError_err ..
  · cases exec_next h with
    | ignored _ hf => simp [hrun] at hf
    | rejected => exact recordError_err ..
    | inited _ hinit => exact hinit.elim
    | absorbed _ _ _ hbytes =>
      rw [absorbBytes_err (s := { s with outValid := false }) hrun hbytes, hfault, Bool.or_true]

/-- Only a failed command sets `S.err`. -/
theorem ExecStep.fails_of_err {i : Instr} {s t : State} (hstep : ExecStep s i t) (hclear : s.err = false)
    (herr : t.err = true) : s.fault = false ∧ Fails i s t := by
  cases hstep with
  | rejected hrun hrej => exact ⟨hrun, .inl ⟨_, hrej⟩⟩
  | absorbed hrun _ _ hbytes =>
    rw [absorbBytes_err (s := { s with outValid := false }) hrun hbytes, hclear, Bool.false_or] at herr
    exact ⟨hrun, .inr ⟨⟨_, rfl⟩, herr⟩⟩
  | reset | cleared => cases herr
  | _ => exact (Bool.false_ne_true (hclear.symm.trans herr)).elim

theorem HostFrame.ready {s t : State} (h : HostFrame s t) : t.ready = s.ready := by rw [h]

theorem HostFrame.err {s t : State} (h : HostFrame s t) : t.err = s.err := by rw [h]

theorem HostFrame.fault {s t : State} (h : HostFrame s t) : t.fault = s.fault := by rw [h]

/-- R27, by the command. -/
theorem ExecStep.ready {i : Instr} {s t : State} (hstep : ExecStep s i t) :
    t.ready = s.ready ∨ t = resetAction s ∨
      (t.ready = true ∧ (i = .initHash ∨ i = .initKeyed 32 ∨ i = .initDeriveContext)) := by
  cases hstep with
  | reset => exact .inr (.inl rfl)
  | rejected => exact .inl (recordError_ready ..)
  | absorbed _ _ _ hbytes => exact .inl (absorbBytes_frame hbytes).ready
  | inited _ hinit =>
    cases i with
    | initHash => exact .inr (.inr ⟨rfl, .inl rfl⟩)
    | initKeyed a =>
      obtain ⟨rfl, -⟩ := hinit
      exact .inr (.inr ⟨rfl, .inr (.inl rfl)⟩)
    | initDeriveContext => exact .inr (.inr ⟨rfl, .inr (.inr rfl)⟩)
    | initDeriveMaterial =>
      obtain ⟨hready, -⟩ := hinit
      exact .inl hready.symm
    | _ => exact hinit.elim
  | _ => exact .inl rfl

/-- R27: `READY` is kept, or cleared by reset, or set by a command that needs no hasher. -/
theorem ServeStep.ready {e : HostEvent} {s t : State} (hstep : ServeStep s e t) :
    t.ready = s.ready ∨ t = resetAction s ∨
      (t.ready = true ∧
        (e = .write 32 0x00C 0x00000002 ∨ e = .write 32 0x00C 0x00002003 ∨ e = .write 32 0x00C 0x00000004)) := by
  cases hstep with
  | read => exact .inl rfl
  | write v => exact .inl (writeReg_hostFrame _ v s).ready
  | reset => exact .inr (.inl rfl)
  | word hword =>
    cases hword with
    | ignored => exact .inl rfl
    | illegal => exact .inl (recordError_ready ..)
    | command hd hexec =>
      obtain rfl := eq_encode_of_decode hd
      obtain hkept | hreset | ⟨hset, hi⟩ := hexec.ready
      · exact .inl hkept
      · exact .inr (.inl hreset)
      · refine .inr (.inr ⟨hset, ?_⟩)
        obtain rfl | rfl | rfl := hi
        · exact .inl rfl
        · exact .inr (.inl rfl)
        · exact .inr (.inr rfl)

/-- R28, by the command: what clears `S.err`. -/
theorem ExecStep.err_cleared {i : Instr} {s t : State} (hstep : ExecStep s i t) (herr : s.err = true)
    (hclear : t.err = false) : t = resetAction s ∨ (i = .clearErr ∧ t = clearRecord s) := by
  cases hstep with
  | reset => exact .inl rfl
  | cleared => exact .inr ⟨rfl, rfl⟩
  | rejected =>
    rw [recordError_err] at hclear
    cases hclear
  | absorbed hrun _ _ hbytes =>
    rw [absorbBytes_err (s := { s with outValid := false }) hrun hbytes, herr] at hclear
    cases hclear
  | _ => exact (Bool.false_ne_true (hclear.symm.trans herr)).elim

/-- R28: `ERR` is cleared by reset and by `CLEAR_ERR` only. -/
theorem ServeStep.err_cleared {e : HostEvent} {s t : State} (hstep : ServeStep s e t) (herr : s.err = true)
    (hclear : t.err = false) : t = resetAction s ∨ (e = .write 32 0x00C 0x0000000A ∧ t = clearRecord s) := by
  cases hstep with
  | read => exact (Bool.false_ne_true (hclear.symm.trans herr)).elim
  | write v =>
    rw [(writeReg_hostFrame _ v s).err, herr] at hclear
    cases hclear
  | reset => exact .inl rfl
  | word hword =>
    cases hword with
    | ignored => exact (Bool.false_ne_true (hclear.symm.trans herr)).elim
    | illegal =>
      rw [recordError_err] at hclear
      cases hclear
    | command hd hexec =>
      obtain rfl := eq_encode_of_decode hd
      obtain hreset | ⟨rfl, ht⟩ := hexec.err_cleared herr hclear
      · exact .inl hreset
      · exact .inr ⟨rfl, ht⟩

/-- R28: `ERR` is set by a word written to `CMD` of a block that runs, and by no other event. -/
theorem ServeStep.err_set {e : HostEvent} {s t : State} (hstep : ServeStep s e t) (hclear : s.err = false)
    (herr : t.err = true) : s.fault = false ∧ ∃ c, e = .write 32 0x00C c := by
  cases hstep with
  | read => exact (Bool.false_ne_true (hclear.symm.trans herr)).elim
  | write v =>
    rw [(writeReg_hostFrame _ v s).err, hclear] at herr
    cases herr
  | reset => cases herr
  | word hword =>
    refine ⟨?_, _, rfl⟩
    cases hword with
    | ignored => exact (Bool.false_ne_true (hclear.symm.trans herr)).elim
    | illegal _ hrun => exact hrun
    | command _ hexec =>
      obtain ⟨hrun, -⟩ := hexec.fails_of_err hclear herr
      exact hrun

/-- R29, by the command. -/
theorem ExecStep.fault {i : Instr} {s t : State} (hstep : ExecStep s i t) :
    t.fault = s.fault ∨ t = resetAction s ∨
      ∃ n c u, 1 ≤ n ∧ n ≤ 64 ∧ i = .absorb n ∧ AtOverflow u ∧ t = chunkOverflowFault c u := by
  cases hstep with
  | reset => exact .inr (.inl rfl)
  | rejected => exact .inl (recordError_fault ..)
  | absorbed hrun _ hn hbytes =>
    obtain ⟨hf, -⟩ | ⟨hne, u, -, hover, ht⟩ := absorbBytes_record (s := { s with outValid := false }) hrun hbytes
    · exact .inl (hf.trans hrun.symm)
    · refine .inr (.inr ⟨_, _, u, Nat.pos_of_ne_zero fun hzero => hne ?_, hn, rfl, hover, ht⟩)
      rw [hzero]
      rfl
  | _ => exact .inl rfl

/-- R29: `FAULT` is kept, or cleared by reset, or set by an `ABSORB` of at least a byte that takes the overflow fault. -/
theorem ServeStep.fault {e : HostEvent} {s t : State} (hstep : ServeStep s e t) :
    t.fault = s.fault ∨ t = resetAction s ∨
      ∃ n c u, 1 ≤ n ∧ n ≤ 64 ∧ e = .write 32 0x00C (encode (.absorb n)) ∧ AtOverflow u ∧
        t = chunkOverflowFault c u := by
  cases hstep with
  | read => exact .inl rfl
  | write v => exact .inl (writeReg_hostFrame _ v s).fault
  | reset => exact .inr (.inl rfl)
  | word hword =>
    cases hword with
    | ignored => exact .inl rfl
    | illegal => exact .inl (recordError_fault ..)
    | command hd hexec =>
      obtain rfl := eq_encode_of_decode hd
      obtain hkept | hreset | ⟨n, c, u, hpos, hn, rfl, hover, ht⟩ := hexec.fault
      · exact .inl hkept
      · exact .inr (.inl hreset)
      · exact .inr (.inr ⟨n, c, u, hpos, hn, rfl, hover, ht⟩)

theorem AtOverflow.chunkCtr {s : State} (h : AtOverflow s) : s.chunkCtr = 0xFFFFFFFFFFFFFFFF := by
  obtain ⟨-, hwrap⟩ := h
  bv_omega

theorem chunkLen_chunkOverflowFault (c : Word) (s : State) : chunkLen (chunkOverflowFault c s) = chunkLen s := by
  simp [chunkLen]

/-- Settles O22: the first clause by the checks of each command, the last by what one event can do to each bit. -/
theorem stickyStatusBits : Obligations.StickyStatusBits := by
  refine ⟨fun c s t hrun h => ?failed, fun n s t hrun hready hctr hlen hpos hn h => ?overflow,
    fun i s t hrun hi h => ?init, fun e s t h => ?event⟩
  case failed =>
    intro failed
    rw [serve_cmd] at h
    obtain ⟨e, hd⟩ | ⟨i, hd⟩ := decode_total c
    · rw [executeWord_of_error hd, illegalCommand, unlessFaulted_of_running hrun] at h
      cases h
      exact ⟨fun _ => recordError_err .., fun _ _ => .inl ⟨e, hd⟩⟩
    · rw [executeWord_of_ok hd] at h
      have hfailed : failed ↔ Fails i s t := by
        simp only [failed, hd]
        cases i with
        | initDeriveMaterial => simp [fails_initDeriveMaterial]
        | absorb n => simp [fails_absorb]
        | squeeze => simp [fails_squeeze]
        | _ => simp [Fails, Rejects]
      rw [hfailed]
      refine ⟨err_of_fails hrun h, fun hclear herr => ?_⟩
      obtain ⟨-, hfails⟩ := (exec_next h).fails_of_err hclear herr
      exact hfails
  case overflow =>
    have hwf : (Instr.absorb n).wf = true := by simpa [Instr.wf] using (by omega : n < 256)
    have hover : AtOverflow { s with outValid := false } := ⟨hlen, by simp [hctr]⟩
    obtain ⟨x, xs, hbytes⟩ := List.exists_cons_of_length_pos (hpos.trans_eq (absorbOperand_length hn s).symm)
    rw [serve_cmd, executeWord_of_ok (decode_encode hwf), exec_absorb_of_running hrun hready hn, hbytes,
      absorbBytes_of_atOverflow hover] at h
    cases h
    exact chunkOverflowFault_fault ..
  case init =>
    obtain ⟨k, m, hwf, hinit⟩ : ∃ k m, i.wf = true ∧ Inits i s k m := by
      obtain rfl | rfl | rfl := hi
      · exact ⟨_, _, rfl, rfl, rfl⟩
      · exact ⟨_, _, rfl, rfl, rfl, rfl⟩
      · exact ⟨_, _, rfl, rfl, rfl⟩
    rw [serve_cmd, executeWord_of_ok (decode_encode hwf), exec_of_inits hrun hinit] at h
    cases h
    rfl
  case event =>
    have hstep := serve_next h
    refine ⟨fun hs ht => ?_, fun hs ht => ?_, hstep.err_set, hstep.err_cleared, fun hs ht => ?_, fun hs ht => ?_⟩
    · obtain hkept | hreset | ⟨hset, -⟩ := hstep.ready
      · simp [hkept, hs] at ht
      · exact hreset
      · simp [hset] at ht
    · obtain hkept | rfl | ⟨-, he⟩ := hstep.ready
      · simp [hkept, hs] at ht
      · cases ht
      · exact he
    · obtain hkept | hreset | ⟨n, c, u, -, -, -, -, rfl⟩ := hstep.fault
      · simp [hkept, hs] at ht
      · exact hreset
      · simp at ht
    · obtain hkept | rfl | ⟨n, c, u, hpos, hn, he, hover, rfl⟩ := hstep.fault
      · simp [hkept, hs] at ht
      · cases ht
      · have hctr := hover.chunkCtr
        obtain ⟨hlen, -⟩ := hover
        exact ⟨(chunkOverflowFault_chunkCtr ..).trans hctr, (chunkLen_chunkOverflowFault c u).trans hlen,
          n, hpos, hn, he⟩

end Sys2Proof.Machine
end

section
/-! # Proofs: the host port (`20_memory.md`)

What an access leaves unchanged (R68), which accesses are bus errors (R63, R64), and that no command but `RESET` writes a register
that holds an operand (R72). -/

namespace Sys2Proof.Machine

/-! ### What an access changes (R68) -/

/-- A register that is not `RW` shows state that the host port does not write. -/
theorem HostFrame.readReg_eq {s t : State} (hframe : HostFrame s t) {r : Reg} (hr : accessOf r ≠ .rw) :
    readReg r t = readReg r s := by
  rw [hframe]
  cases r with
  | key _ | din _ | cvIn _ | tLo | tHi | bLen | dFlags | mIn _ => exact absurd rfl hr
  | _ => rfl

/-- Two `RW` registers share no state: they are different arrays or words, or different words of one array. -/
theorem readReg_writeReg_of_ne {r r' : Reg} (hne : r' ≠ r) (v : Word) (s : State) :
    readReg r' (writeReg r v s) = readReg r' s := by
  by_cases hr' : accessOf r' = .rw
  · cases r' with
    | key j | din j | cvIn j | mIn j => cases r <;> grind [readReg, writeReg]
    | tLo | tHi | bLen | dFlags => cases r <;> simp_all [readReg, writeReg]
    | _ => cases hr'
  · exact (writeReg_hostFrame r v s).readReg_eq hr'

/-- Settles O8: the rules of the port for a read and for a write, and that two registers share no state the host writes. -/
theorem accessSideEffects : Obligations.AccessSideEffects := by
  refine ⟨fun bits o s t h => ?read, fun r r' v s hrw hne => ?write, fun c s => rfl⟩
  case read =>
    obtain ⟨r, v, -, -, rfl⟩ := hostRead_next h
    rfl
  case write => exact ⟨writeReg r v s, hostWrite_rw hrw v s, readReg_writeReg_of_ne hne v s⟩

/-! ### Which accesses are bus errors (R63, R64) -/

/-- R64: a reserved offset, one between or beyond the registers of R22. -/
def ReservedOffset (n : Nat) : Prop :=
  (0x030 ≤ n ∧ n ≤ 0x03F) ∨ (0x060 ≤ n ∧ n ≤ 0x07F) ∨ (0x130 ≤ n ∧ n ≤ 0x13F) ∨ 0x1C0 ≤ n

/-- R22, R23: an offset of the rows of class `RO`. -/
def ReadOnlyOffset (n : Nat) : Prop :=
  n < 0x00C ∨ (0x010 ≤ n ∧ n < 0x030) ∨ (0x0C0 ≤ n ∧ n < 0x100) ∨ (0x180 ≤ n ∧ n < 0x1C0)

theorem regOfWord_eq_none_iff (w : Nat) : regOfWord w = none ↔ ReservedOffset (4 * w) := by
  unfold regOfWord ReservedOffset
  split
  case h_17 =>
    simp only [imp_false] at *
    split_ifs <;> simp only [eq_self, false_iff, true_iff] <;> omega
  all_goals simp

theorem regAt_eq_none_iff (o : Offset) : regAt o = none ↔ o.toNat % 4 ≠ 0 ∨ ReservedOffset o.toNat := by
  unfold regAt
  split
  case isTrue halign =>
    have hword : 4 * (o.toNat / 4) = o.toNat := by omega
    rw [regOfWord_eq_none_iff, hword]
    simp [halign]
  case isFalse hmis => simp [hmis]

/-- R63: what makes an access a bus error whatever the register's class. -/
theorem accessReg_eq_none_iff (bits : Nat) (o : Offset) :
    accessReg bits o = none ↔ o.toNat % 4 ≠ 0 ∨ bits ≠ 32 ∨ ReservedOffset o.toNat := by
  unfold accessReg
  split
  case isTrue hbits => simp [regAt_eq_none_iff, show bits = 32 from hbits]
  case isFalse hbits => simp [show bits ≠ 32 from hbits]

theorem accessReg_eq_none_or_iff (bits : Nat) (o : Offset) (p : Prop) :
    accessReg bits o = none ∨ p ↔ o.toNat % 4 ≠ 0 ∨ bits ≠ 32 ∨ ReservedOffset o.toNat ∨ p := by
  rw [accessReg_eq_none_iff, or_assoc, or_assoc]

theorem accessOf_eq_ro_iff (r : Reg) : accessOf r = .ro ↔ ReadOnlyOffset (regOffset r).toNat := by
  cases r with
  | key k | din k | dout k | cvIn k | mIn k | cmpOut k =>
    rw [regOffset, arrayOffset_toNat (by omega)]
    simp only [accessOf, ReadOnlyOffset, reduceCtorEq, true_iff, false_iff]
    omega
  | _ => simp [accessOf, ReadOnlyOffset, regOffset]

theorem eq_cmd_iff (r : Reg) : r = .cmd ↔ (regOffset r).toNat = 0x00C := by
  refine ⟨fun h => h ▸ rfl, fun h => ?_⟩
  have hoff : regOffset r = regOffset .cmd := BitVec.eq_of_toNat_eq h
  exact Option.some.inj (by rw [← regAt_regOffset r, hoff, regAt_regOffset])

theorem readReg_eq_none_iff (r : Reg) (s : State) : readReg r s = none ↔ r = .cmd := by
  cases r <;> simp [readReg]

/-- R63: a read is a bus error where no readable register is addressed. -/
theorem hostRead_eq_busError_iff (bits : Nat) (o : Offset) (s : State) :
    hostRead bits o s = .fault .busError ↔ accessReg bits o = none ∨ accessReg bits o = some .cmd := by
  cases hacc : accessReg bits o with
  | none => simp [hostRead, hacc]
  | some r =>
    have hcmd := readReg_eq_none_iff r s
    cases hread : readReg r s <;> simp_all [hostRead]

/-! ### No command ends in a bus error -/

theorem ite_ne_fault {p : Prop} [Decidable p] {a b : Result} {e : Fault} (ha : a ≠ .fault e) (hb : b ≠ .fault e) :
    (if p then a else b) ≠ .fault e := by
  split
  · exact ha
  · exact hb

theorem next_ne_fault (t : State) (e : Fault) : (.next t : Result) ≠ .fault e := nofun

theorem unlessFaulted_ne_fault {s : State} {r : Result} {e : Fault} (h : r ≠ .fault e) :
    unlessFaulted s r ≠ .fault e :=
  ite_ne_fault (next_ne_fault s e) h

theorem rotateChunk_ne_busError (c : Word) (s : State) : rotateChunk c s ≠ .fault .busError := by
  refine ite_ne_fault (ite_ne_fault (next_ne_fault _ _) ?_) (next_ne_fault _ _)
  split <;> simp

theorem absorbByte_ne_busError (c : Word) (x : Byte) (s : State) : absorbByte c x s ≠ .fault .busError := by
  unfold absorbByte
  split
  case h_1 => exact ite_ne_fault (next_ne_fault _ _) (next_ne_fault _ _)
  case h_2 r hrotate => exact fun h => rotateChunk_ne_busError c s (hrotate.trans h)
  case h_3 => nofun

theorem absorbBytes_ne_busError (c : Word) (bs : List Byte) (s : State) : absorbBytes c bs s ≠ .fault .busError := by
  induction bs generalizing s with
  | nil => exact next_ne_fault _ _
  | cons x xs ih =>
    unfold absorbBytes
    split
    case h_1 s' _ => exact ite_ne_fault (next_ne_fault _ _) (ih s')
    case h_2 r hbyte => exact fun h => absorbByte_ne_busError c x s (hbyte.trans h)
    case h_3 => nofun

/-- Only `ABSORB` can end in a fault, that of the merge stack; every other command ends in a next state. -/
theorem exec_ne_busError (i : Instr) (s : State) : exec i s ≠ .fault .busError := by
  cases i with
  | absorb n =>
    exact unlessFaulted_ne_fault <| ite_ne_fault (next_ne_fault _ _) <| ite_ne_fault (next_ne_fault _ _) <|
      absorbBytes_ne_busError _ _ _
  | reset => exact next_ne_fault _ _
  | nop | initHash | initDeriveContext | compress | clearErr => exact unlessFaulted_ne_fault (next_ne_fault _ _)
  | initKeyed _ | finalize =>
    exact unlessFaulted_ne_fault <| ite_ne_fault (next_ne_fault _ _) (next_ne_fault _ _)
  | initDeriveMaterial | squeeze =>
    exact unlessFaulted_ne_fault <| ite_ne_fault (next_ne_fault _ _) <|
      ite_ne_fault (next_ne_fault _ _) (next_ne_fault _ _)

theorem executeWord_ne_busError (c : Word) (s : State) : executeWord c s ≠ .fault .busError := by
  obtain ⟨_, -, hc⟩ | ⟨i, -, hc⟩ := executeWord_eq c s
  · rw [hc]
    exact unlessFaulted_ne_fault (next_ne_fault _ _)
  · rw [hc]
    exact exec_ne_busError i s

/-- R63: a write is a bus error where no register, or one of class `RO`, is addressed. -/
theorem hostWrite_eq_busError_iff (bits : Nat) (o : Offset) (v : Word) (s : State) :
    hostWrite bits o v s = .fault .busError ↔
      accessReg bits o = none ∨ ∃ r, accessReg bits o = some r ∧ accessOf r = .ro := by
  cases hacc : accessReg bits o with
  | none => simp [hostWrite, hacc]
  | some r => cases hclass : accessOf r <;> simp [hostWrite, hacc, hclass, executeWord_ne_busError]

/-- Settles O10: a bus error is an access that addresses no register, or one of the wrong class, and the register addressed is the
one at the offset. -/
theorem busErrorsExactly : Obligations.BusErrorsExactly := by
  intro bits o v s n reserved readOnly
  have hsplit (p : Prop) : n % 4 ≠ 0 ∨ bits ≠ 32 ∨ reserved ∨ p ↔ accessReg bits o = none ∨ p :=
    (accessReg_eq_none_or_iff bits o p).symm
  rw [hostRead_eq_busError_iff, hostWrite_eq_busError_iff, hsplit, hsplit]
  cases hacc : accessReg bits o with
  | none => simp only [true_or, and_self]
  | some r =>
    obtain ⟨-, rfl⟩ := eq_regOffset_of_accessReg hacc
    have hcmd : r = .cmd ↔ n = 0x00C := eq_cmd_iff r
    have hro : accessOf r = .ro ↔ readOnly := accessOf_eq_ro_iff r
    simp only [reduceCtorEq, false_or, Option.some.injEq, exists_eq_left', hcmd, hro, and_self]

/-! ### The registers no command writes (R72) -/

/-- `t` holds the operands and the host's own data of `s`. -/
def OperandsKept (s t : State) : Prop :=
  t.key = s.key ∧ t.din = s.din ∧ t.cvIn = s.cvIn ∧ t.tLo = s.tLo ∧ t.tHi = s.tHi ∧ t.bLen = s.bLen ∧
  t.dFlags = s.dFlags ∧ t.mIn = s.mIn ∧ t.pending = s.pending ∧ t.returned = s.returned

theorem recordError_operandsKept (e : ErrCode) (c : Word) (s : State) : OperandsKept s (recordError e c s) := by
  simp [OperandsKept]

theorem AbsorbFrame.operandsKept {s t : State} (h : AbsorbFrame s t) : OperandsKept s t := by
  rw [h]
  simp [OperandsKept]

theorem ExecStep.operandsKept {i : Instr} {s t : State} (hstep : ExecStep s i t) (hi : i ≠ .reset) :
    OperandsKept s t := by
  cases hstep with
  | reset => exact absurd rfl hi
  | rejected => exact recordError_operandsKept ..
  | absorbed _ _ _ hbytes => exact (absorbBytes_frame hbytes).operandsKept
  | ignored | nop | inited | finalized | squeezed | compressed | cleared => simp [OperandsKept]

/-- Settles O23: a command is known by its word, and only `RESET` and the host port write these registers. -/
theorem commandsKeepOperandRegisters : Obligations.CommandsKeepOperandRegisters := by
  intro c s t hc h
  change OperandsKept s t
  cases executeWord_next h with
  | ignored => simp [OperandsKept]
  | illegal => exact recordError_operandsKept ..
  | command hd hexec =>
    obtain rfl := eq_encode_of_decode hd
    exact hexec.operandsKept fun hreset => hc (congrArg encode hreset)

end Sys2Proof.Machine
end

section
/-! # Proofs: encoding and decoding (`30_encoding.md`)

A word is its three fields (R80), and it decodes to a command exactly where `RSV` is 0 and the other two fields are the command's
opcode and argument. The round trips (R84, R99), the legal and illegal words (R84, R88) and the match and mask columns (R86) are
read off that. -/

namespace Sys2Proof.Machine

/-! ### The fields of a word (R80) -/

theorem word_eq_iff_fields (c d : Word) :
    c = d ↔ rsvField c = rsvField d ∧ opcodeField c = opcodeField d ∧ argField c = argField d := by
  refine ⟨by rintro rfl; simp, fun ⟨hrsv, hop, harg⟩ => BitVec.eq_of_toNat_eq ?_⟩
  rw [rsvField_eq, rsvField_eq] at hrsv
  rw [opcodeField_eq, opcodeField_eq] at hop
  rw [argField_eq, argField_eq] at harg
  omega

theorem rsvField_eq_zero_iff (c : Word) : rsvField c = 0 ↔ c.extractLsb' 16 16 = 0 := BitVec.toNat_inj (y := 0)

theorem argField_eq_zero_iff (c : Word) : argField c = 0 ↔ c.extractLsb' 8 8 = 0 := BitVec.toNat_inj (y := 0)

/-! ### The words that decode (R84) -/

theorem decodeOpcode_opcodeOf (i : Instr) : decodeOpcode (opcodeOf i) (argOf i) = .ok i := by
  cases i <;> rfl

theorem decode_eq_ok_iff (c : Word) (i : Instr) :
    decode c = .ok i ↔ rsvField c = 0 ∧ opcodeOf i = opcodeField c ∧ argOf i = argField c := by
  refine ⟨decode_ok, fun ⟨hrsv, hop, harg⟩ => ?_⟩
  rw [decode, if_neg (not_not_intro hrsv), ← hop, ← harg, decodeOpcode_opcodeOf]

/-- A command whose argument is the value of an 8-bit field is well formed (R82). -/
theorem wf_of_argOf_lt {i : Instr} (h : argOf i < 256) : i.wf = true := by
  cases i with
  | initKeyed a | absorb a => exact decide_eq_true h
  | _ => rfl

/-- The opcode map (R85): eleven opcodes, and an argument on two of them only. -/
theorem exists_instr_iff (op arg : Nat) :
    (∃ i, opcodeOf i = op ∧ argOf i = arg) ↔ op ≤ 0x0A ∧ (arg = 0 ∨ op = 0x03 ∨ op = 0x06) := by
  constructor
  · rintro ⟨i, rfl, rfl⟩
    cases i <;> simp [opcodeOf, argOf]
  · rintro ⟨hop, rfl | rfl | rfl⟩
    · interval_cases op
      exacts [⟨.nop, rfl, rfl⟩, ⟨.reset, rfl, rfl⟩, ⟨.initHash, rfl, rfl⟩, ⟨.initKeyed 0, rfl, rfl⟩,
        ⟨.initDeriveContext, rfl, rfl⟩, ⟨.initDeriveMaterial, rfl, rfl⟩, ⟨.absorb 0, rfl, rfl⟩, ⟨.finalize, rfl, rfl⟩,
        ⟨.squeeze, rfl, rfl⟩, ⟨.compress, rfl, rfl⟩, ⟨.clearErr, rfl, rfl⟩]
    · exact ⟨.initKeyed arg, rfl, rfl⟩
    · exact ⟨.absorb arg, rfl, rfl⟩

/-- R84: the words that decode, by their fields. -/
theorem exists_decode_ok_iff (c : Word) :
    (∃ i, decode c = .ok i) ↔
      rsvField c = 0 ∧ opcodeField c ≤ 0x0A ∧ (argField c = 0 ∨ opcodeField c = 0x03 ∨ opcodeField c = 0x06) := by
  simp only [decode_eq_ok_iff, exists_and_left, exists_instr_iff]

theorem exists_decode_error_iff (c : Word) : (∃ e, decode c = .error e) ↔ ¬ ∃ i, decode c = .ok i := by
  cases decode c <;> simp

/-- R88: the words that do not decode, by their fields. -/
theorem exists_decode_error_iff_fields (c : Word) :
    (∃ e, decode c = .error e) ↔
      ¬ (rsvField c = 0 ∧ opcodeField c ≤ 0x0A ∧ (argField c = 0 ∨ opcodeField c = 0x03 ∨ opcodeField c = 0x06)) := by
  rw [exists_decode_error_iff, exists_decode_ok_iff]

/-- Settles O2: the fields of the word are the command's opcode and argument, which the opcode map takes back to the command. -/
theorem decodeOfEncode : Obligations.DecodeOfEncode := fun _ hwf => decode_encode hwf

/-- Settles O3: the fields of the word are all of it, and its argument comes from an 8-bit field. -/
theorem encodeOfDecode : Obligations.EncodeOfDecode := by
  intro c i h
  obtain ⟨-, -, harg⟩ := decode_ok h
  exact ⟨wf_of_argOf_lt (harg ▸ (c.extractLsb' 8 8).isLt), (eq_encode_of_decode h).symm⟩

/-- Settles O4: the first three clauses are the ways a word fails to decode, and the last is the word that does. -/
theorem decodeFollowsThePseudocode : Obligations.DecodeFollowsThePseudocode := by
  intro c
  simp only [exists_decode_error_iff_fields, rsvField_eq_zero_iff, opcodeField, argField]
  refine ⟨fun hrsv ⟨hzero, _, _⟩ => hrsv hzero, fun _ hop ⟨_, hle, _⟩ => hop.not_ge hle,
    fun _ _ harg hkeyed habsorb ⟨_, _, htaken⟩ => htaken.elim harg (·.elim hkeyed habsorb), fun hrsv hop harg => ?_⟩
  obtain ⟨i, hi⟩ := (exists_decode_ok_iff c).2 ⟨(rsvField_eq_zero_iff c).2 hrsv, hop, harg⟩
  obtain ⟨-, hopcode, hargument⟩ := decode_ok hi
  exact ⟨i, hi, hopcode, hargument⟩

/-! ### The match and mask columns (R86) -/

theorem matchOf_toNat (i : Instr) : (matchOf i).toNat = opcodeOf i := by
  have hlt := opcodeOf_lt i
  rw [matchOf, BitVec.toNat_ofNat, Nat.mod_eq_of_lt (by omega)]

theorem opcodeField_matchOf (i : Instr) : opcodeField (matchOf i) = opcodeOf i := by
  have hlt := opcodeOf_lt i
  rw [opcodeField_eq, matchOf_toNat, Nat.mod_eq_of_lt (by omega)]

theorem argField_matchOf (i : Instr) : argField (matchOf i) = 0 := by
  have hlt := opcodeOf_lt i
  rw [argField_eq, matchOf_toNat, Nat.div_eq_of_lt (by omega), Nat.zero_mod]

theorem rsvField_matchOf (i : Instr) : rsvField (matchOf i) = 0 := by
  have hlt := opcodeOf_lt i
  rw [rsvField_eq, matchOf_toNat, Nat.div_eq_of_lt (by omega)]

theorem maskOf_eq (i : Instr) :
    maskOf i = if opcodeOf i = 0x03 ∨ opcodeOf i = 0x06 then 0xFFFF00FF else 0xFFFFFFFF := by
  cases i <;> rfl

/-- Every mask keeps the opcode. -/
theorem opcodeField_and_maskOf (c : Word) (i : Instr) : opcodeField (c &&& maskOf i) = opcodeField c := by
  have hmask : (maskOf i).extractLsb' 0 8 = BitVec.allOnes 8 := by rw [maskOf_eq]; split <;> rfl
  rw [opcodeField, BitVec.extractLsb'_and, hmask, BitVec.and_allOnes, opcodeField]

/-- Every mask keeps the reserved bits. -/
theorem rsvField_and_maskOf (c : Word) (i : Instr) : rsvField (c &&& maskOf i) = rsvField c := by
  have hmask : (maskOf i).extractLsb' 16 16 = BitVec.allOnes 16 := by rw [maskOf_eq]; split <;> rfl
  rw [rsvField, BitVec.extractLsb'_and, hmask, BitVec.and_allOnes, rsvField]

/-- The mask keeps the argument, except on the two commands that take one. -/
theorem argField_and_maskOf (c : Word) (i : Instr) :
    argField (c &&& maskOf i) = if opcodeOf i = 0x03 ∨ opcodeOf i = 0x06 then 0 else argField c := by
  have hnone : (0xFFFFFFFF : Word).extractLsb' 8 8 = BitVec.allOnes 8 := rfl
  rw [maskOf_eq, argField, BitVec.extractLsb'_and]
  split
  · simp
  · rw [hnone, BitVec.and_allOnes, argField]

/-- R86: a word agrees with a command's match under its mask where its fields are those of the command, with any argument if the
command takes one. -/
theorem and_maskOf_eq_matchOf_iff (c : Word) (i : Instr) :
    c &&& maskOf i = matchOf i ↔
      rsvField c = 0 ∧ opcodeField c = opcodeOf i ∧ (argField c = 0 ∨ opcodeOf i = 0x03 ∨ opcodeOf i = 0x06) := by
  rw [word_eq_iff_fields, rsvField_and_maskOf, rsvField_matchOf, opcodeField_and_maskOf, opcodeField_matchOf,
    argField_and_maskOf, argField_matchOf]
  split
  case isTrue htakes => simp [htakes]
  case isFalse hnone => simp [hnone]

theorem exists_decode_opcodeOf_iff (c : Word) (op : Nat) :
    (∃ i, decode c = .ok i ∧ opcodeOf i = op) ↔ (∃ i, decode c = .ok i) ∧ opcodeField c = op := by
  rw [← exists_and_right]
  refine exists_congr fun i => and_congr_right fun h => ?_
  obtain ⟨-, hop, -⟩ := decode_ok h
  rw [hop]

/-- Settles O5: both sides say that the word's reserved bits are 0, its opcode is the command's, and its argument is 0 unless that
opcode takes one. -/
theorem matchAndMaskTable : Obligations.MatchAndMaskTable := by
  intro c i
  have hlt := opcodeOf_lt i
  rw [and_maskOf_eq_matchOf_iff, exists_decode_opcodeOf_iff, exists_decode_ok_iff]
  omega

/-! ### Executing an illegal word (R88) -/

/-- The opcodes that take no argument. -/
theorem mem_noArgument_opcodes_iff (op : Nat) :
    op ∈ [0x00, 0x01, 0x02, 0x04, 0x05, 0x07, 0x08, 0x09, 0x0A] ↔ op ≤ 0x0A ∧ op ≠ 0x03 ∧ op ≠ 0x06 := by
  simp only [List.mem_cons, List.not_mem_nil, or_false]
  omega

/-- Settles O6: the illegal words are those whose fields do not decode, and executing one is the fault stop before `raise`. -/
theorem illegalWordsOnlyRecordAnError : Obligations.IllegalWordsOnlyRecordAnError := by
  intro c
  refine ⟨?_, fun s e hdecode => ?_⟩
  · simp only [exists_decode_error_iff_fields, mem_noArgument_opcodes_iff, ne_eq, ← rsvField_eq_zero_iff,
      ← argField_eq_zero_iff]
    rw [opcodeField]
    omega
  · rw [executeWord_of_error hdecode, illegalCommand, raiseError]
    refine ⟨fun hfault => unlessFaulted_of_fault hfault _, fun hfault herr => ?_, fun hfault herr => ?_⟩
    · rw [unlessFaulted_of_running hfault, recordError_of_err herr]
    · rw [unlessFaulted_of_running hfault, recordError_of_clear herr]

/-! ### The words of V-DEC -/

/-- Settles O1: the decoder evaluated on each word. -/
theorem encodedWordsDecode : Obligations.EncodedWordsDecode :=
  ⟨rfl, rfl, rfl, rfl, rfl, rfl, rfl, rfl, rfl, rfl, rfl, rfl, rfl⟩

end Sys2Proof.Machine
end

section
/-! # Proofs: the compression unit (`40_compression.md`)

The mixer reads and writes only the four words it is given (R101, R102), so calls on disjoint words commute and the order within a
group of a round is free (R105). The schedule table (R110) is the permutation iterated from the identity, and the in-place
feed-forward (R112) an induction on the turns of its loop. `COMPRESS` (R115) is one equation in every state without a fault. -/

namespace Sys2Proof.Machine

/-! ### The mixer (R101, R102) -/

/-- Four steps of the mixer; R101 runs them twice, with one message word and one pair of rotations each time. -/
def halfMix (v : Words16) (a b c d : Fin 16) (x : Word) (r r' : Nat) : Words16 :=
  let v := v.set a (v[a] + v[b] + x)
  let v := v.set d (rotr (v[d] ^^^ v[a]) r)
  let v := v.set c (v[c] + v[d])
  v.set b (rotr (v[b] ^^^ v[c]) r')

theorem g_eq_halfMix (v : Words16) (a b c d : Fin 16) (mx my : Word) :
    g v a b c d mx my = halfMix (halfMix v a b c d mx 16 12) a b c d my 8 7 := rfl

/-- A step's write shows in the word it writes and in no other. -/
theorem set_get (v : Words16) (i k : Fin 16) (x : Word) : (v.set i x)[k] = if i = k then x else v[k] := by
  rw [Fin.getElem_fin, Vector.getElem_set, Fin.getElem_fin]
  simp only [Fin.val_inj]

theorem halfMix_get (v : Words16) {a b c d : Fin 16} (x : Word) (r r' : Nat) (hdistinct : [a, b, c, d].Nodup) :
    let a1 := v[a] + v[b] + x
    let d1 := rotr (v[d] ^^^ a1) r
    let c1 := v[c] + d1
    let b1 := rotr (v[b] ^^^ c1) r'
    (halfMix v a b c d x r r')[a] = a1 ∧ (halfMix v a b c d x r r')[b] = b1 ∧ (halfMix v a b c d x r r')[c] = c1 ∧
    (halfMix v a b c d x r r')[d] = d1 := by
  simp only [List.nodup_cons, List.mem_cons, List.not_mem_nil, or_false, not_or] at hdistinct
  obtain ⟨⟨hab, hac, had⟩, ⟨hbc, hbd⟩, hcd, -⟩ := hdistinct
  simp only [halfMix, set_get, if_true, hab, hac, had, hbc, hbd, hcd, Ne.symm hab, Ne.symm hac, Ne.symm had,
    Ne.symm hbc, Ne.symm hbd, Ne.symm hcd, if_false, and_self]

theorem halfMix_get_of_notMem (v : Words16) {a b c d k : Fin 16} (x : Word) (r r' : Nat) (hk : k ∉ [a, b, c, d]) :
    (halfMix v a b c d x r r')[k] = v[k] := by
  simp only [List.mem_cons, List.not_mem_nil, or_false, not_or] at hk
  obtain ⟨hka, hkb, hkc, hkd⟩ := hk
  simp only [halfMix, set_get, Ne.symm hka, Ne.symm hkb, Ne.symm hkc, Ne.symm hkd, if_false]

/-- Settles O39: with distinct indices each step reads in its own words what the steps before it left there. -/
theorem mixerStep : Obligations.MixerStep := by
  intro v a b c d mx my hdistinct
  obtain ⟨ha, hb, hc, hd⟩ := halfMix_get v mx 16 12 hdistinct
  obtain ⟨ha2, hb2, hc2, hd2⟩ := halfMix_get (halfMix v a b c d mx 16 12) my 8 7 hdistinct
  simp only [ha, hb, hc, hd] at ha2 hb2 hc2 hd2
  intro a1 d1 c1 b1 a2 d2 c2 b2
  rw [g_eq_halfMix]
  refine ⟨ha2, hb2, hc2, hd2, ?_, fun k hk => ?_, by decide⟩
  · rw [BitVec.toNat_add, BitVec.toNat_add, Nat.mod_add_mod]
  · rw [halfMix_get_of_notMem _ _ _ _ hk, halfMix_get_of_notMem _ _ _ _ hk]

/-- What the mixer leaves in its four words depends on what it found there and on nothing else of the state. -/
theorem g_congr {v w : Words16} {a b c d : Fin 16} (mx my : Word) (hdistinct : [a, b, c, d].Nodup)
    (h : ∀ k ∈ [a, b, c, d], v[k] = w[k]) : ∀ k ∈ [a, b, c, d], (g v a b c d mx my)[k] = (g w a b c d mx my)[k] := by
  obtain ⟨hva, hvb, hvc, hvd, -⟩ := mixerStep v a b c d mx my hdistinct
  obtain ⟨hwa, hwb, hwc, hwd, -⟩ := mixerStep w a b c d mx my hdistinct
  simp only [List.forall_mem_cons] at h ⊢
  obtain ⟨ha, hb, hc, hd, -⟩ := h
  rw [hva, hvb, hvc, hvd, hwa, hwb, hwc, hwd, ha, hb, hc, hd]
  simp

/-! ### The round (R105) -/

/-- The state words a call reads and writes. -/
def GCall.words (r : GCall) : List (Fin 16) := [r.a, r.b, r.c, r.d]

theorem gCall_get_of_notMem (m v : Words16) {r : GCall} (hr : r.words.Nodup) {k : Fin 16} (hk : k ∉ r.words) :
    (gCall m v r)[k] = v[k] := by
  obtain ⟨-, -, -, -, -, hframe, -⟩ := mixerStep v r.a r.b r.c r.d m[r.mx] m[r.my] hr
  exact hframe k hk

theorem gCall_get_congr (m : Words16) {v w : Words16} {r : GCall} (hr : r.words.Nodup)
    (h : ∀ k ∈ r.words, v[k] = w[k]) {k : Fin 16} (hk : k ∈ r.words) : (gCall m v r)[k] = (gCall m w r)[k] :=
  g_congr _ _ hr h k hk

/-- Calls on disjoint words commute. -/
theorem gCall_comm (m v : Words16) {r r' : GCall} (hr : r.words.Nodup) (hr' : r'.words.Nodup)
    (hdisjoint : r.words.Disjoint r'.words) : gCall m (gCall m v r) r' = gCall m (gCall m v r') r := by
  have hword (k : Fin 16) : (gCall m (gCall m v r) r')[k] = (gCall m (gCall m v r') r)[k] := by
    by_cases hk : k ∈ r.words
    · rw [gCall_get_of_notMem m _ hr' (hdisjoint hk)]
      exact gCall_get_congr m hr (fun j hj => (gCall_get_of_notMem m v hr' (hdisjoint hj)).symm) hk
    · rw [gCall_get_of_notMem m _ hr hk]
      by_cases hk' : k ∈ r'.words
      · exact gCall_get_congr m hr' (fun j hj => gCall_get_of_notMem m v hr fun hj' => hdisjoint hj' hj) hk'
      · rw [gCall_get_of_notMem m _ hr' hk', gCall_get_of_notMem m _ hr hk, gCall_get_of_notMem m _ hr' hk']
  exact Vector.ext fun i hi => hword ⟨i, hi⟩

/-- Calls whose words are distinct, and disjoint from those of the other calls, may run in any order. -/
theorem foldl_gCall_perm (m v : Words16) {calls group : List GCall} (hperm : calls.Perm group)
    (hdistinct : ∀ r ∈ group, r.words.Nodup)
    (hdisjoint : ∀ r ∈ group, ∀ r' ∈ group, r ≠ r' → ∀ k ∈ r.words, k ∉ r'.words) :
    calls.foldl (gCall m) v = group.foldl (gCall m) v := by
  refine hperm.foldl_eq' (fun r hr r' hr' w => ?_) v
  rw [hperm.mem_iff] at hr hr'
  by_cases hsame : r = r'
  · rw [hsame]
  · exact gCall_comm m w (hdistinct r hr) (hdistinct r' hr') fun k => hdisjoint r hr r' hr' hsame k

/-- Settles O40: the four calls of each group touch disjoint words. -/
theorem roundOrderFree : Obligations.RoundOrderFree := by
  intro v m columns diagonals hcolumns hdiagonals
  rw [mixRound, ← List.take_append_drop 4 gTable, List.foldl_append, List.foldl_append,
    foldl_gCall_perm m v hcolumns (by decide) (by decide),
    foldl_gCall_perm m _ hdiagonals (by decide) (by decide)]

/-! ### The message schedule (R110) -/

/-- Sixteen entries in the order a row of the schedule table gives. -/
def reorder {α : Type} (m : Vector α 16) (order : Vector (Fin 16) 16) : Vector α 16 := Vector.ofFn fun i => m[order[i]]

theorem permute_reorder (m : Words16) (order : Vector (Fin 16) 16) :
    permute (reorder m order) = reorder m (reorder order perm) := by
  ext1 i hi
  simp [permute, reorder]

theorem reorder_id (m : Words16) : reorder m (Vector.ofFn id) = m := by
  ext1 i hi
  simp [reorder]

/-- R108 permutes the words as it goes, and R110 permutes the rows: the rounds are the same. -/
theorem rounds_eq_foldl_rows (m : Words16) (n : Nat) (row : Vector (Fin 16) 16) (v : Words16) :
    rounds (n + 1) v (reorder m row) =
      (List.iterate (reorder · perm) row (n + 1)).foldl (fun w r => mixRound w (reorder m r)) v := by
  induction n generalizing row v with
  | zero => rw [List.iterate, List.iterate, List.foldl_cons, List.foldl_nil, rounds]
  | succ n ih => rw [List.iterate, List.foldl_cons, rounds_succ_succ, permute_reorder, ih]

/-- Settles O41: the table is the permutation iterated from the identity, so each row is the permutation of the one before. -/
theorem scheduleTable : Obligations.ScheduleTable := by
  unfold Obligations.ScheduleTable
  intro table
  have htable : table = List.iterate (reorder · perm) (Vector.ofFn id) 7 := by decide
  refine ⟨fun v m => ?_, by decide⟩
  have hrounds := rounds_eq_foldl_rows m 6 (Vector.ofFn id) v
  rw [reorder_id, ← htable] at hrounds
  exact hrounds

/-! ### The feed-forward (R112) -/

/-- One turn of the source's loop: words `i` and `i + 8` overwritten, the first before the second. -/
def feedForwardTurn (cv : Cv) (w : Words16) (i : Fin 8) : Words16 :=
  let w := w.set i.val (w[i.val] ^^^ w[i.val + 8])
  w.set (i.val + 8) (w[i.val + 8] ^^^ cv[i])

theorem feedForwardTurn_low (cv : Cv) (w : Words16) (i j : Fin 8) :
    (feedForwardTurn cv w i)[j.val] = if i = j then w[j.val] ^^^ w[j.val + 8] else w[j.val] := by
  have hne : i.val + 8 ≠ j.val := by omega
  simp only [feedForwardTurn, Vector.getElem_set, hne, if_false, Fin.val_inj]
  split
  · subst i; rfl
  · rfl

theorem feedForwardTurn_high (cv : Cv) (w : Words16) (i j : Fin 8) :
    (feedForwardTurn cv w i)[j.val + 8] = if i = j then w[j.val + 8] ^^^ cv[j] else w[j.val + 8] := by
  have hne (k : Nat) : i.val ≠ k + 8 := by omega
  simp only [feedForwardTurn, Vector.getElem_set, hne, if_false, Nat.add_right_cancel_iff, Fin.val_inj]
  split
  · subst i; rfl
  · rfl

/-- Each turn leaves the words of the others as they are, so after the turns of a list the words of that list are overwritten, each
once, and no others. -/
theorem foldl_feedForwardTurn (cv : Cv) {turns : List (Fin 8)} (hturns : turns.Nodup) (v : Words16) (j : Fin 8) :
    (turns.foldl (feedForwardTurn cv) v)[j.val] = (if j ∈ turns then v[j.val] ^^^ v[j.val + 8] else v[j.val]) ∧
    (turns.foldl (feedForwardTurn cv) v)[j.val + 8] = if j ∈ turns then v[j.val + 8] ^^^ cv[j] else v[j.val + 8] := by
  induction turns generalizing v with
  | nil => simp
  | cons i turns ih =>
    obtain ⟨hi, hrest⟩ := List.nodup_cons.1 hturns
    obtain ⟨hlow, hhigh⟩ := ih hrest (feedForwardTurn cv v i)
    rw [List.foldl_cons, hlow, hhigh, feedForwardTurn_low, feedForwardTurn_high]
    by_cases hj : i = j
    · subst hj; simp [hi]
    · simp [hj, Ne.symm hj]

/-- Settles O42: all eight turns overwrite all sixteen words, as the feed-forward gives them. -/
theorem feedForwardInPlace : Obligations.FeedForwardInPlace := by
  intro v cv
  change feedForward v cv = (List.finRange 8).foldl (feedForwardTurn cv) v
  have hword (j : Fin 8) := foldl_feedForwardTurn cv (List.nodup_finRange 8) v j
  simp only [List.mem_finRange, if_true] at hword
  ext1 i hi
  by_cases hlow : i < 8
  · rw [feedForward_low v cv i hlow, (hword ⟨i, hlow⟩).1]
  · obtain ⟨j, rfl⟩ := Nat.exists_eq_add_of_le' (Nat.le_of_not_lt hlow)
    rw [feedForward_high v cv j (by omega), (hword ⟨j, by omega⟩).2]
    rfl

/-! ### The command (R115) -/

/-- R44: the counter operand is its two registers side by side. -/
theorem counterOperand_eq (s : State) : counterOperand s = s.tHi ++ s.tLo := by
  rw [counterOperand, BitVec.append_def, BitVec.shiftLeftZeroExtend_eq, BitVec.setWidth'_eq]

theorem exec_compress_of_running {s : State} (hrun : s.fault = false) :
    exec .compress s = .next { s with
      cmpOut := compress s.cvIn s.mIn (s.tHi ++ s.tLo) (s.bLen.setWidth 32) s.dFlags } := by
  rw [← counterOperand_eq]
  exact unlessFaulted_of_running hrun _

theorem initState_low (cv : Cv) (t : Counter) (b d : Word) (k : Nat) (hk : k < 8) : (initState cv t b d)[k] = cv[k] := by
  rw [initState, appendCv_get, dif_pos hk]

/-- R111: the eight words after the chaining value. -/
theorem initState_high (cv : Cv) (t : Counter) (b d : Word) (k : Nat) (hk : k < 8) :
    (initState cv t b d)[k + 8] = (#v[iv[0], iv[1], iv[2], iv[3], low32 t, high32 t, b, d] : Cv)[k] := by
  rw [initState, appendCv_get, dif_neg (by omega)]
  simp only [Nat.add_sub_cancel]

/-- R88: a word of the opcode of a command without argument is that command's word or is illegal. -/
theorem exists_decode_error_of_opcode {c : Word} {i : Instr} (hmask : maskOf i = 0xFFFFFFFF)
    (hop : opcodeField c = opcodeOf i) (hc : c ≠ matchOf i) : ∃ e, decode c = .error e := by
  rw [exists_decode_error_iff]
  rintro ⟨j, hj⟩
  obtain ⟨-, hopcode, -⟩ := decode_ok hj
  have hmatch := (matchAndMaskTable c i).2 ⟨j, hj, hopcode.trans hop⟩
  rw [hmask] at hmatch
  exact hc (BitVec.and_allOnes.symm.trans hmatch)

/-- V-CMP-4: two words of the compression of zeros. -/
theorem compress_zero :
    (compress (Vector.replicate 8 0) (Vector.replicate 16 0) 0 0 0)[0] = 0xfd22061a ∧
    (compress (Vector.replicate 8 0) (Vector.replicate 16 0) 0 0 0)[8] = 0x534a82d5 := by
  decide +kernel

/-- Settles O36: the command is one equation in every state without a fault, and no operand it reads is a register it writes. -/
theorem compressCommand : Obligations.CompressCommand := by
  refine ⟨rfl, fun s hfault => unlessFaulted_of_fault hfault _, fun s hrun => exec_compress_of_running hrun,
    fun s t hrun h => ?_,
    fun cv t b d => ⟨fun k => initState_low cv t b d k k.isLt, fun k => ?_, initState_high cv t b d 4 (by decide),
      initState_high cv t b d 5 (by decide), initState_high cv t b d 6 (by decide), initState_high cv t b d 7 (by decide)⟩,
    fun cv b d => ⟨initState_high cv _ b d 4 (by decide), initState_high cv _ b d 5 (by decide)⟩,
    fun c hop hc => exists_decode_error_of_opcode (i := .compress) rfl (congrArg BitVec.toNat hop) hc, fun t h => ?_⟩
  · rw [exec_compress_of_running hrun, Host.Outcome.next.injEq] at h
    subst h
    exact exec_compress_of_running hrun
  · rw [initState_high cv t b d k (by omega)]
    fin_cases k <;> rfl
  · rw [exec_compress_of_running rfl, Host.Outcome.next.injEq] at h
    subst h
    exact ⟨congrArg some compress_zero.1, congrArg some compress_zero.2⟩

end Sys2Proof.Machine
end

section
/-! # Proofs: the chunk accumulator (`41_chunk.md`)

A byte absorbed without fault is either buffered in the current chunk or, where that chunk is full, starts the next one: the
relation `ByteStep`, in which no command word appears (R135). Iterated, it is what any split of the bytes into `ABSORB` commands
does (R97, R143), and it keeps `InputHeld`: the accumulator holds the last chunk of the input so far, its earlier blocks chained
and its last block buffered, and the stack counts the chunks before it (R134, R137, R138, R141). -/

namespace Sys2Proof.Machine

/-! ### Rotation and the byte step, one equation per case (R135) -/

theorem chunkLen_eq (s : State) : chunkLen s = 64 * s.blocksDone.val + s.blockLen.val := rfl

theorem chunkLen_eq_full_iff (s : State) : chunkLen s = 1024 ↔ s.blockLen.val = 64 ∧ s.blocksDone.val = 15 := by
  have hlen := s.blockLen.isLt
  have hdone := s.blocksDone.isLt
  rw [chunkLen_eq]
  omega

theorem absorbByte_of_room {s : State} (hrun : s.fault = false) (hroom : chunkLen s ≠ 1024) (c : Word) (x : Byte) :
    absorbByte c x s = .next (bufferByte x s) := by
  simp [absorbByte, rotateChunk, Config.chunkLen, hroom, hrun]

theorem merge_fault {ccv : Cv} {total : Counter} {s s' : State} (h : merge ccv total s = some s') : s'.fault = s.fault := by
  obtain ⟨st, -, rfl⟩ := merge_some h
  rfl

theorem absorbByte_of_merge {s s' : State} (hrun : s.fault = false) (hfull : chunkLen s = 1024) (hctr : s.chunkCtr + 1 ≠ 0)
    (hmerge : merge (chainingValue (chunkNode s)) (s.chunkCtr + 1) s = some s') (c : Word) (x : Byte) :
    absorbByte c x s = .next (bufferByte x (freshChunk (s.chunkCtr + 1) s')) := by
  rw [absorbByte, rotateChunk, Config.chunkLen, if_pos hfull, if_neg hctr, hmerge]
  simp [merge_fault hmerge, hrun]

theorem absorbByte_of_atOverflow {s : State} (h : AtOverflow s) (c : Word) (x : Byte) :
    absorbByte c x s = .next (chunkOverflowFault c s) := by
  simp [absorbByte, rotateChunk_of_atOverflow h]

theorem bufferByte_of_room {s : State} (hroom : s.blockLen.val < 64) (x : Byte) : bufferByte x s = storeByte x s := by
  rw [bufferByte, Config.blockLen, if_neg (Nat.ne_of_lt hroom)]

theorem bufferByte_of_full {s : State} (hfull : s.blockLen.val = 64) (x : Byte) :
    bufferByte x s = storeByte x (compressBlock s) := by
  rw [bufferByte, Config.blockLen, if_pos hfull]

/-- A byte stored in a cleared block. -/
theorem replicate_setIfInBounds_get (x : Byte) (j : Fin 64) :
    ((Vector.replicate 64 (0 : Byte)).setIfInBounds 0 x)[j] = if j = 0 then x else 0 := by
  have h0 : j = 0 ↔ 0 = j.val := by rw [Fin.ext_iff, eq_comm]; rfl
  simp [Vector.getElem_setIfInBounds, h0]

/-- Settles O45: each case is one equation of the byte step. -/
theorem absorbByteStep : Obligations.AbsorbByteStep := by
  intro c x s hrun
  have hwrap : s.chunkCtr.toNat + 1 = 2 ^ 64 → s.chunkCtr + 1 = 0 := fun h => by bv_omega
  refine ⟨fun hlen => ?room, fun hlen hdone => ?block, fun hlen hdone hctr s' hmerge => ?chunk,
    fun hlen hdone hctr herr => ?errored, fun hlen hdone hctr hclear => ?clear⟩
  case room =>
    refine ⟨storeByte x s, ?_, rfl, Nat.mod_eq_of_lt (by omega), fun j => ?_⟩
    · rw [absorbByte_of_room hrun (by rw [Ne, chunkLen_eq_full_iff]; omega), bufferByte_of_room hlen]
    · simp [Vector.getElem_setIfInBounds, eq_comm]
  case block =>
    refine ⟨storeByte x (compressBlock s), ?_, rfl, Nat.mod_eq_of_lt (by omega), replicate_setIfInBounds_get x, rfl⟩
    rw [absorbByte_of_room hrun (by rw [Ne, chunkLen_eq_full_iff]; omega), bufferByte_of_full hlen]
  case chunk =>
    refine ⟨storeByte x (freshChunk (s.chunkCtr + 1) s'), ?_, ?_, replicate_setIfInBounds_get x⟩
    · rw [absorbByte_of_merge hrun ((chunkLen_eq_full_iff s).2 ⟨hlen, hdone⟩) (by bv_omega) hmerge,
        bufferByte_of_room (show 0 < 64 by decide)]
    · obtain ⟨st, -, rfl⟩ := merge_some hmerge
      rfl
  all_goals rw [absorbByte_of_atOverflow ⟨(chunkLen_eq_full_iff s).2 ⟨hlen, hdone⟩, hwrap hctr⟩, chunkOverflowFault]
  case errored => rw [recordError_of_err herr]
  case clear => rw [recordError_of_clear hclear]

/-! ### `ABSORB` (R140) -/

/-- Settles O37: the checks in their order, then the byte loop, of which completion, frame and error record are known. -/
theorem absorbTakesTheFirstBytes : Obligations.AbsorbTakesTheFirstBytes := by
  refine ⟨fun n hn => ?word, fun n s hfault => unlessFaulted_of_fault hfault _, fun n s hrun hrej herr => ?errored,
    fun n s hrun hready hclear => ?notReady, fun n s hrun hready hn hclear => ?tooLong,
    fun n s hinv hrun hready hn => ?absorbed, fun s t hs ht => ?abc⟩
  case word => rw [encode, opcodeOf, argOf, Nat.mod_eq_of_lt hn, Nat.mul_comm]
  case errored =>
    obtain ⟨e, he⟩ : ∃ e, Rejects (.absorb n) s e := by
      cases hready : s.ready with
      | false => exact ⟨_, Or.inl ⟨hready, rfl⟩⟩
      | true => exact ⟨_, Or.inr ⟨hready, hrej.resolve_left (by simp [hready]), rfl⟩⟩
    rw [exec_of_rejects hrun he, recordError_of_err herr]
  case notReady =>
    have hrej : Rejects (.absorb n) s .notInitialized := .inl ⟨hready, rfl⟩
    rw [exec_of_rejects hrun hrej, recordError_of_clear hclear]
  case tooLong =>
    have hrej : Rejects (.absorb n) s .badLength := .inr ⟨hready, hn, rfl⟩
    rw [exec_of_rejects hrun hrej, recordError_of_clear hclear]
  case absorbed =>
    obtain ⟨t, hbytes⟩ := absorbBytes_completes (s := { s with outValid := false }) (encode (.absorb n))
      (absorbOperand n s) (hinv.stack_popcount hready hrun)
    refine ⟨t, (exec_absorb_of_running hrun hready hn).trans hbytes, hbytes, absorbBytes_frame hbytes, fun hf => ?_, ?_⟩
    · obtain ⟨-, hrecord⟩ | ⟨-, u, -, -, rfl⟩ := absorbBytes_record (s := { s with outValid := false }) hrun hbytes
      · exact hrecord
      · simp at hf
    · rintro rfl
      cases hbytes
      rfl
  case abc =>
    cases hs
    cases ht
    exact ⟨by decide, by decide, rfl⟩

/-! ### A byte absorbed without fault -/

/-- R135 where no fault is taken: the byte goes to a chunk with room, or to the chunk begun after a full one is merged. -/
inductive ByteStep (x : Byte) (s : State) : State → Prop
  /-- The chunk has room. -/
  | buffered : chunkLen s ≠ 1024 → ByteStep x s (bufferByte x s)
  /-- The chunk is full. -/
  | rotated {s' : State} : chunkLen s = 1024 → s.chunkCtr + 1 ≠ 0 →
      merge (chainingValue (chunkNode s)) (s.chunkCtr + 1) s = some s' →
      ByteStep x s (bufferByte x (freshChunk (s.chunkCtr + 1) s'))

theorem absorbByte_iff_byteStep {c : Word} {x : Byte} {s t : State} (hrun : s.fault = false) :
    absorbByte c x s = .next t ∧ t.fault = false ↔ ByteStep x s t := by
  constructor
  · rintro ⟨h, hf⟩
    obtain ⟨s', hrotate, rfl⟩ := absorbByte_next h
    obtain ⟨hroom, rfl⟩ | ⟨-, -, rfl⟩ | ⟨hfull, hctr, s'', hmerge, rfl⟩ := rotateChunk_next hrotate
    · rw [hrun]
      exact .buffered hroom
    · simp at hf
    · rw [freshChunk_fault, merge_fault hmerge, hrun]
      exact .rotated hfull hctr hmerge
  · intro h
    cases h with
    | buffered hroom => exact ⟨absorbByte_of_room hrun hroom c x, (bufferByte_fault x s).trans hrun⟩
    | rotated hfull hctr hmerge =>
      refine ⟨absorbByte_of_merge hrun hfull hctr hmerge c x, (bufferByte_fault x _).trans ?_⟩
      rw [freshChunk_fault, merge_fault hmerge, hrun]

/-- The bytes of a string absorbed in order without fault. -/
inductive BytesAbsorbed : List Byte → State → State → Prop
  | nil (s : State) : BytesAbsorbed [] s s
  | cons {x : Byte} {xs : List Byte} {s s' t : State} :
      ByteStep x s s' → BytesAbsorbed xs s' t → BytesAbsorbed (x :: xs) s t

/-- The byte loop of `ABSORB` under any command word, where it takes no fault. -/
theorem absorbBytes_iff_bytesAbsorbed {c : Word} {bs : List Byte} {s t : State} (hrun : s.fault = false) :
    absorbBytes c bs s = .next t ∧ t.fault = false ↔ BytesAbsorbed bs s t := by
  constructor
  · rintro ⟨h, hf⟩
    induction bs generalizing s with
    | nil =>
      cases h
      exact .nil _
    | cons x xs ih =>
      obtain ⟨s', hbyte, ⟨hf', rfl⟩ | ⟨hf', hrest⟩⟩ := absorbBytes_cons_next h
      · simp [hf] at hf'
      · exact .cons ((absorbByte_iff_byteStep hrun).1 ⟨hbyte, hf'⟩) (ih hf' hrest)
  · intro h
    induction h with
    | nil => exact ⟨rfl, hrun⟩
    | cons hstep _ ih =>
      obtain ⟨hbyte, hf⟩ := (absorbByte_iff_byteStep (c := c) hrun).2 hstep
      simpa [absorbBytes, hbyte, hf] using ih hf

theorem BytesAbsorbed.append {xs ys : List Byte} {s m t : State} (h : BytesAbsorbed xs s m) (k : BytesAbsorbed ys m t) :
    BytesAbsorbed (xs ++ ys) s t := by
  induction h with
  | nil => exact k
  | cons hstep _ ih => exact .cons hstep (ih k)

theorem BytesAbsorbed.split {xs ys : List Byte} {s t : State} (h : BytesAbsorbed (xs ++ ys) s t) :
    ∃ m, BytesAbsorbed xs s m ∧ BytesAbsorbed ys m t := by
  induction xs generalizing s with
  | nil => exact ⟨s, .nil s, h⟩
  | cons x xs ih =>
    cases h with
    | cons hstep hrest =>
      obtain ⟨m, hxs, hys⟩ := ih hrest
      exact ⟨m, .cons hstep hxs, hys⟩

theorem BytesAbsorbed.ready {bs : List Byte} {s t : State} (h : BytesAbsorbed bs s t) (hrun : s.fault = false) :
    t.ready = s.ready :=
  (absorbBytes_frame ((absorbBytes_iff_bytesAbsorbed (c := 0) hrun).2 h).1).ready

theorem BytesAbsorbed.running {bs : List Byte} {s t : State} (h : BytesAbsorbed bs s t) (hrun : s.fault = false) :
    t.fault = false :=
  ((absorbBytes_iff_bytesAbsorbed (c := 0) hrun).2 h).2

/-! ### The byte step reads neither `DIN` nor `S.out_valid` -/

/-- `s` with the two fields that may differ between two splits of an input (R143). -/
def withInput (d : Words16) (v : Bool) (s : State) : State := { s with din := d, outValid := v }

theorem bufferByte_withInput (x : Byte) (d : Words16) (v : Bool) (s : State) :
    bufferByte x (withInput d v s) = withInput d v (bufferByte x s) := by
  unfold bufferByte withInput
  split <;> rfl

theorem merge_withInput {ccv : Cv} {total : Counter} {s s' : State} (h : merge ccv total s = some s') (d : Words16)
    (v : Bool) : merge ccv total (withInput d v s) = some (withInput d v s') := by
  obtain ⟨st, hloop, rfl⟩ := merge_some h
  simp [merge, withInput, hloop]

theorem ByteStep.map_withInput {x : Byte} {s t : State} (h : ByteStep x s t) (d : Words16) (v : Bool) :
    ByteStep x (withInput d v s) (withInput d v t) := by
  cases h with
  | buffered hroom =>
    rw [← bufferByte_withInput]
    exact .buffered hroom
  | rotated hfull hctr hmerge =>
    rw [← bufferByte_withInput]
    exact .rotated (s := withInput d v s) hfull hctr (merge_withInput hmerge d v)

theorem BytesAbsorbed.map_withInput {bs : List Byte} {s t : State} (h : BytesAbsorbed bs s t) (d : Words16) (v : Bool) :
    BytesAbsorbed bs (withInput d v s) (withInput d v t) := by
  induction h with
  | nil => exact .nil _
  | cons hstep _ ih => exact .cons (hstep.map_withInput d v) ih

/-! ### Pieces (R97) -/

theorem absorbPiece_eq {p : Nat × Words16} {s : State} (hready : s.ready = true) (hrun : s.fault = false) (hp : p.1 ≤ 64) :
    absorbPiece p s =
      absorbBytes (encode (.absorb p.1)) ((bytesLe p.2.toList).take p.1) (withInput p.2 false s) :=
  exec_absorb_of_running (s := { s with din := p.2 }) hrun hready hp

theorem absorbPieces_cons_next {p : Nat × Words16} {ps : List (Nat × Words16)} {s t : State}
    (h : absorbPieces (p :: ps) s = .next t) : ∃ s', absorbPiece p s = .next s' ∧ absorbPieces ps s' = .next t := by
  unfold absorbPieces at h
  split at h
  · exact ⟨_, ‹_›, h⟩
  all_goals cases h

/-- R241: once a piece has faulted the rest are ignored. -/
theorem absorbPieces_of_fault {ps : List (Nat × Words16)} {s t : State} (hfault : s.fault = true)
    (h : absorbPieces ps s = .next t) : t.fault = true := by
  induction ps generalizing s with
  | nil =>
    cases h
    exact hfault
  | cons p ps ih =>
    obtain ⟨s', hpiece, hrest⟩ := absorbPieces_cons_next h
    have hignored : absorbPiece p s = .next { s with din := p.2 } :=
      unlessFaulted_of_fault (s := { s with din := p.2 }) hfault _
    cases hignored.symm.trans hpiece
    exact ih (s := { s with din := p.2 }) hfault hrest

/-- Pieces absorbed without fault are their bytes absorbed, whatever stands in `DIN` and `S.out_valid`. -/
theorem bytesAbsorbed_of_absorbPieces {ps : List (Nat × Words16)} {s t : State} (hready : s.ready = true)
    (hlen : ∀ p ∈ ps, p.1 ≤ 64) (h : absorbPieces ps s = .next t) (hf : t.fault = false) (d : Words16) (v : Bool) :
    BytesAbsorbed (pieceBytes ps) (withInput d v s) (withInput d v t) := by
  induction ps generalizing s with
  | nil =>
    cases h
    exact .nil _
  | cons p ps ih =>
    obtain ⟨hp, hps⟩ := List.forall_mem_cons.1 hlen
    obtain ⟨m, hpiece, hrest⟩ := absorbPieces_cons_next h
    have hrunning {u : State} {qs : List (Nat × Words16)} (hq : absorbPieces qs u = .next t) : u.fault = false :=
      Bool.eq_false_iff.2 fun hfault => by simp [absorbPieces_of_fault hfault hq] at hf
    have hrun := hrunning h
    rw [absorbPiece_eq hready hrun hp] at hpiece
    have hbytes := (absorbBytes_iff_bytesAbsorbed (s := withInput p.2 false s) hrun).1 ⟨hpiece, hrunning hrest⟩
    exact (hbytes.map_withInput d v).append (ih ((absorbBytes_frame hpiece).ready.trans hready) hps hrest)

/-- Bytes that are absorbed without fault are absorbed in any pieces that hold them. -/
theorem absorbPieces_of_bytesAbsorbed {ps : List (Nat × Words16)} {s t : State} (h : BytesAbsorbed (pieceBytes ps) s t)
    (hready : s.ready = true) (hrun : s.fault = false) (hlen : ∀ p ∈ ps, p.1 ≤ 64) :
    ∃ u, absorbPieces ps s = .next u ∧ u = withInput u.din u.outValid t := by
  induction ps generalizing s t with
  | nil =>
    cases h
    exact ⟨s, rfl, rfl⟩
  | cons p ps ih =>
    obtain ⟨hp, hps⟩ := List.forall_mem_cons.1 hlen
    obtain ⟨m, hpiece, hrest⟩ := h.split
    obtain ⟨hbytes, -⟩ := (absorbBytes_iff_bytesAbsorbed (c := encode (.absorb p.1)) (s := withInput p.2 false s) hrun).2
      (hpiece.map_withInput p.2 false)
    obtain ⟨u, hu, heq⟩ := ih (hrest.map_withInput p.2 false) ((hpiece.ready hrun).trans hready) (hpiece.running hrun) hps
    refine ⟨u, ?_, heq⟩
    simp only [absorbPieces, absorbPiece_eq hready hrun hp, hbytes, hu]

/-- Settles O47: both sequences of pieces are the same bytes absorbed. -/
theorem splitsDoNotMatter : Obligations.SplitsDoNotMatter := by
  intro s t ps qs hready hrun hps hqs hsame h hf
  have hbytes : BytesAbsorbed (pieceBytes ps) s (withInput s.din s.outValid t) :=
    bytesAbsorbed_of_absorbPieces hready hps h hf s.din s.outValid
  rw [hsame] at hbytes
  exact absorbPieces_of_bytesAbsorbed (t := withInput s.din s.outValid t) hbytes hready hrun hqs

/-! ### What the accumulator holds of its chunk (R53, R131, R137) -/

/-- A later byte does not change the chaining value of the blocks before it. -/
theorem chainAfter_append (key : Cv) (mode : Mode) (k : Nat) (bs xs : List Byte) {j : Nat} (hj : 64 * j ≤ bs.length) :
    chainAfter key mode k (bs ++ xs) j = chainAfter key mode k bs j := by
  induction j with
  | zero => rfl
  | succ j ih =>
    have hblock : ((bs ++ xs).drop (64 * j)).take 64 = (bs.drop (64 * j)).take 64 := by
      rw [List.drop_append_of_le_length (by omega), List.take_append_of_le_length (by rw [List.length_drop]; omega)]
    rw [chainAfter, chainAfter, ih (by omega), hblock]

theorem startFlag_eq_startFlagOf (s : State) : startFlag s = startFlagOf s.blocksDone.val := by
  simp only [startFlag, startFlagOf, Fin.ext_iff, Fin.val_zero]

/-- The accumulator of a hasher of seed `key` and mode `mode` holds the bytes `ch` of chunk `k`: its compressed blocks in the
running chaining value, the bytes after them in the block buffer. -/
structure ChunkHeld (key : Cv) (mode : Mode) (k : Nat) (ch : List Byte) (s : State) : Prop where
  keyCv_eq : s.keyCv = key
  mode_eq : s.mode = mode
  chunkCtr_toNat : s.chunkCtr.toNat = k
  length_eq : chunkLen s = ch.length
  chunkCv_eq : s.chunkCv = chainAfter key mode k ch s.blocksDone.val
  block_eq : s.block.toList.take s.blockLen.val = ch.drop (64 * s.blocksDone.val)

section
variable {key : Cv} {mode : Mode} {k : Nat} {ch : List Byte} {s : State}

theorem ChunkHeld.chunkCtr_eq (h : ChunkHeld key mode k ch s) : s.chunkCtr = BitVec.ofNat 64 k := by
  rw [← h.chunkCtr_toNat, BitVec.ofNat_toNat, BitVec.setWidth_eq]

theorem freshChunk_chunkHeld {t : Counter} (hkey : s.keyCv = key) (hmode : s.mode = mode) (hk : t.toNat = k) :
    ChunkHeld key mode k [] (freshChunk t s) :=
  ⟨hkey, hmode, hk, rfl, hkey, rfl⟩

theorem compressBlock_chunkHeld (h : ChunkHeld key mode k ch s) (hfull : s.blockLen.val = 64) (hroom : ch.length < 1024) :
    ChunkHeld key mode k ch (compressBlock s) := by
  have hlen := h.length_eq
  rw [chunkLen_eq, hfull] at hlen
  have hdone : (compressBlock s).blocksDone.val = s.blocksDone.val + 1 := Nat.mod_eq_of_lt (by omega)
  have hblock : (ch.drop (64 * s.blocksDone.val)).take 64 = s.block.toList := by
    rw [← h.block_eq, hfull, List.take_take, Nat.min_self, List.take_of_length_le (by rw [Vector.length_toList])]
  refine ⟨h.keyCv_eq, h.mode_eq, h.chunkCtr_toNat, ?_, ?_, ?_⟩
  · rw [chunkLen_eq, hdone, compressBlock_blockLen, ← hlen, Fin.val_zero]
    omega
  · rw [hdone, chainAfter, hblock, compressBlock_chunkCv, startFlag_eq_startFlagOf, h.chunkCv_eq, h.chunkCtr_eq, h.mode_eq]
  · rw [hdone, List.drop_of_length_le (by omega)]
    rfl

theorem storeByte_chunkHeld (h : ChunkHeld key mode k ch s) (hroom : s.blockLen.val < 64) (x : Byte) :
    ChunkHeld key mode k (ch ++ [x]) (storeByte x s) := by
  have hlen := h.length_eq
  rw [chunkLen_eq] at hlen
  have hnext : (storeByte x s).blockLen.val = s.blockLen.val + 1 := Nat.mod_eq_of_lt (by omega)
  refine ⟨h.keyCv_eq, h.mode_eq, h.chunkCtr_toNat, ?_, ?_, ?_⟩
  · rw [chunkLen_eq, hnext, storeByte_blocksDone, List.length_append, List.length_singleton]
    omega
  · rw [storeByte_chunkCv, storeByte_blocksDone, chainAfter_append _ _ _ _ _ (by omega), h.chunkCv_eq]
  · rw [hnext, storeByte_blocksDone, List.drop_append_of_le_length (by omega), ← h.block_eq, storeByte_block,
      Vector.toList_setIfInBounds, List.take_add_one, List.take_set_of_le (Nat.le_refl _),
      List.getElem?_set_self (by rw [Vector.length_toList]; exact hroom)]
    rfl

theorem bufferByte_chunkHeld (h : ChunkHeld key mode k ch s) (hroom : ch.length < 1024) (x : Byte) :
    ChunkHeld key mode k (ch ++ [x]) (bufferByte x s) := by
  have hle := s.blockLen.isLt
  by_cases hfull : s.blockLen.val = 64
  · rw [bufferByte_of_full hfull]
    exact storeByte_chunkHeld (compressBlock_chunkHeld h hfull hroom) (show 0 < 64 by decide) x
  · rw [bufferByte_of_room (by omega)]
    exact storeByte_chunkHeld h (by omega) x

end

/-- R134: a block is compressed only when a byte follows it, so a byte just buffered stands in the buffer. -/
theorem bufferByte_blockLen_pos (x : Byte) (s : State) : 1 ≤ (bufferByte x s).blockLen.val := by
  have hle := s.blockLen.isLt
  by_cases hfull : s.blockLen.val = 64
  · rw [bufferByte_of_full hfull]
    exact Nat.le_refl 1
  · have hlen : (bufferByte x s).blockLen.val = s.blockLen.val + 1 := by
      rw [bufferByte_of_room (by omega), storeByte_blockLen]
      exact Nat.mod_eq_of_lt (by omega)
    omega

/-! ### The last chunk of an input -/

/-- The index of the last chunk of an input, 0 for the empty input. -/
def lastChunk (bs : List Byte) : Nat := (bs.length - 1) / 1024

/-- The bytes of the last chunk of an input. -/
def lastChunkBytes (bs : List Byte) : List Byte := chunkBytes bs (lastChunk bs)

theorem lastChunkBytes_eq_drop (bs : List Byte) : lastChunkBytes bs = bs.drop (1024 * lastChunk bs) := by
  rw [lastChunkBytes, chunkBytes, List.take_of_length_le (by rw [List.length_drop, lastChunk]; omega)]

theorem lastChunkBytes_length (bs : List Byte) : (lastChunkBytes bs).length = bs.length - 1024 * lastChunk bs := by
  rw [lastChunkBytes_eq_drop, List.length_drop]

theorem lastChunk_append_of_room {bs : List Byte} (h : (lastChunkBytes bs).length < 1024) (x : Byte) :
    lastChunk (bs ++ [x]) = lastChunk bs ∧ lastChunkBytes (bs ++ [x]) = lastChunkBytes bs ++ [x] := by
  rw [lastChunkBytes_length, lastChunk] at h
  have hlast : lastChunk (bs ++ [x]) = lastChunk bs := by
    rw [lastChunk, lastChunk, List.length_append, List.length_singleton]
    omega
  refine ⟨hlast, ?_⟩
  rw [lastChunkBytes_eq_drop, lastChunkBytes_eq_drop, hlast, List.drop_append_of_le_length (by rw [lastChunk]; omega)]

theorem lastChunk_append_of_full {bs : List Byte} (h : (lastChunkBytes bs).length = 1024) (x : Byte) :
    lastChunk (bs ++ [x]) = lastChunk bs + 1 ∧ lastChunkBytes (bs ++ [x]) = [x] := by
  rw [lastChunkBytes_length, lastChunk] at h
  have hlast : lastChunk (bs ++ [x]) = lastChunk bs + 1 := by
    rw [lastChunk, lastChunk, List.length_append, List.length_singleton]
    omega
  refine ⟨hlast, ?_⟩
  rw [lastChunkBytes_eq_drop, hlast, show 1024 * (lastChunk bs + 1) = bs.length by rw [lastChunk]; omega, List.drop_left]

/-! ### What the hasher holds of its input -/

/-- A hasher of seed `key` and mode `mode` that has absorbed the bytes `bs`. -/
structure InputHeld (key : Cv) (mode : Mode) (bs : List Byte) (s : State) : Prop where
  chunk : ChunkHeld key mode (lastChunk bs) (lastChunkBytes bs) s
  block_started : 1 ≤ s.blocksDone.val → 1 ≤ s.blockLen.val
  stack : StackCounted s

theorem FreshHasher.inputHeld {s : State} (h : FreshHasher s) : InputHeld s.keyCv s.mode [] s where
  chunk :=
    { keyCv_eq := rfl
      mode_eq := rfl
      chunkCtr_toNat := by rw [h.chunkCtr]; rfl
      length_eq := by rw [chunkLen_eq, h.blocksDone, h.blockLen]; rfl
      chunkCv_eq := by rw [h.blocksDone, h.chunkCv]; rfl
      block_eq := by rw [h.blockLen, h.blocksDone]; rfl }
  block_started := by simp [h.blocksDone]
  stack := by rw [StackCounted, h.stack, h.chunkCtr, popcount_zero]; rfl

section
variable {key : Cv} {mode : Mode} {bs : List Byte} {s t : State}

theorem InputHeld.map_withInput (h : InputHeld key mode bs s) (d : Words16) (v : Bool) :
    InputHeld key mode bs (withInput d v s) :=
  ⟨{ h.chunk with }, h.block_started, h.stack⟩

/-- The merge of a full chunk finds its entries, and leaves the stack counted for the next one (R166). -/
theorem exists_merge_stackCounted (h : StackCounted s) (hctr : s.chunkCtr + 1 ≠ 0) :
    ∃ s', merge (chainingValue (chunkNode s)) (s.chunkCtr + 1) s = some s' ∧
      StackCounted (freshChunk (s.chunkCtr + 1) s') :=
  merge_completes s _ _ hctr (by rw [BitVec.add_sub_cancel]; exact h)

theorem ByteStep.inputHeld {x : Byte} (hstep : ByteStep x s t) (h : InputHeld key mode bs s) :
    InputHeld key mode (bs ++ [x]) t := by
  have hlen := h.chunk.length_eq
  cases hstep with
  | buffered hroom =>
    have hroom' : (lastChunkBytes bs).length < 1024 := by
      have := s.blockLen.isLt
      have := s.blocksDone.isLt
      rw [chunkLen_eq] at hlen hroom
      omega
    obtain ⟨hlast, hbytes⟩ := lastChunk_append_of_room hroom' x
    refine ⟨?_, fun _ => bufferByte_blockLen_pos x s, bufferByte_stackCounted x h.stack⟩
    rw [hlast, hbytes]
    exact bufferByte_chunkHeld h.chunk hroom' x
  | @rotated s' hfull hctr hmerge =>
    obtain ⟨hlast, hbytes⟩ := lastChunk_append_of_full (hlen.symm.trans hfull) x
    have hcounted : StackCounted (freshChunk (s.chunkCtr + 1) s') := by
      obtain ⟨s'', hmerge', hcount⟩ := exists_merge_stackCounted h.stack hctr
      cases hmerge.symm.trans hmerge'
      exact hcount
    refine ⟨?_, fun _ => bufferByte_blockLen_pos x _, bufferByte_stackCounted x hcounted⟩
    have hnext : (s.chunkCtr + 1).toNat = lastChunk bs + 1 := by
      rw [← h.chunk.chunkCtr_toNat]
      bv_omega
    obtain ⟨st, -, rfl⟩ := merge_some hmerge
    rw [hlast, hbytes]
    exact bufferByte_chunkHeld (ch := [])
      (freshChunk_chunkHeld (s := { s with stack := st.reverse }) h.chunk.keyCv_eq h.chunk.mode_eq hnext) (by decide) x

theorem BytesAbsorbed.inputHeld {xs : List Byte} (habsorbed : BytesAbsorbed xs s t) (h : InputHeld key mode bs s) :
    InputHeld key mode (bs ++ xs) t := by
  induction habsorbed generalizing bs with
  | nil => rwa [List.append_nil]
  | cons hstep _ ih =>
    rw [List.append_cons]
    exact ih (hstep.inputHeld h)

/-- R167, R168: below the bound on an input's length one more byte is absorbed without fault. -/
theorem InputHeld.exists_byteStep (h : InputHeld key mode bs s) (hbound : bs.length < 2 ^ 64 * 1024) (x : Byte) :
    ∃ t, ByteStep x s t := by
  by_cases hfull : chunkLen s = 1024
  · have hctr : s.chunkCtr + 1 ≠ 0 := by
      have hindex := h.chunk.chunkCtr_toNat
      have hlen := h.chunk.length_eq.symm.trans hfull
      rw [lastChunkBytes_length] at hlen
      bv_omega
    obtain ⟨s', hmerge, -⟩ := exists_merge_stackCounted h.stack hctr
    exact ⟨_, .rotated hfull hctr hmerge⟩
  · exact ⟨_, .buffered hfull⟩

theorem InputHeld.exists_bytesAbsorbed {xs : List Byte} (h : InputHeld key mode bs s)
    (hbound : bs.length + xs.length ≤ 2 ^ 64 * 1024) : ∃ t, BytesAbsorbed xs s t := by
  induction xs generalizing bs s with
  | nil => exact ⟨s, .nil s⟩
  | cons x xs ih =>
    rw [List.length_cons] at hbound
    obtain ⟨m, hstep⟩ := h.exists_byteStep (by omega) x
    obtain ⟨t, hrest⟩ := ih (hstep.inputHeld h) (by rw [List.length_append, List.length_singleton]; omega)
    exact ⟨t, .cons hstep hrest⟩

/-- R134: every block of the chunk but its last is compressed. -/
theorem InputHeld.blocksDone_eq (h : InputHeld key mode bs s) :
    s.blocksDone.val = lastBlock (lastChunkBytes bs) := by
  have hlen := h.chunk.length_eq
  have hstarted := h.block_started
  have hle := s.blockLen.isLt
  rw [chunkLen_eq] at hlen
  rw [lastBlock]
  omega

/-- R138: the chunk node is the node of the input's last chunk. -/
theorem InputHeld.chunkNode_eq (h : InputHeld key mode bs s) :
    chunkNode s = leafNode key mode (lastChunk bs) (lastChunkBytes bs) := by
  have hlen := h.chunk.length_eq
  rw [chunkLen_eq] at hlen
  have hblockLen : s.blockLen.val = (lastChunkBytes bs).length - 64 * s.blocksDone.val := by omega
  rw [chunkNode, leafNode, ← h.blocksDone_eq, ← hblockLen, h.chunk.chunkCv_eq, h.chunk.block_eq, h.chunk.chunkCtr_eq,
    h.chunk.mode_eq, startFlag_eq_startFlagOf]

end

/-- Settles O46: the bound leaves room for every byte, and the counts are read off what the hasher holds. -/
theorem progressCounts : Obligations.ProgressCounts := by
  intro s ps hfresh hlen hbound
  obtain ⟨t, habsorbed⟩ := hfresh.inputHeld.exists_bytesAbsorbed (xs := pieceBytes ps)
    (by simpa using Nat.le_of_lt_succ hbound)
  obtain ⟨u, hpieces, heq⟩ := absorbPieces_of_bytesAbsorbed habsorbed hfresh.ready hfresh.running hlen
  have hheld : InputHeld s.keyCv s.mode (pieceBytes ps) u := by
    rw [heq]
    exact (habsorbed.inputHeld hfresh.inputHeld).map_withInput _ _
  have hctr := hheld.chunk.chunkCtr_toNat
  have hchunk := hheld.chunk.length_eq
  have hdone := hheld.blocksDone_eq
  have hcount : u.stack.length = popcount u.chunkCtr := hheld.stack
  rw [lastChunkBytes_length, ← hctr] at hchunk
  rw [lastBlock, lastChunkBytes_length, ← hctr, ← hchunk] at hdone
  refine ⟨u, hpieces, by rw [heq]; exact habsorbed.running hfresh.running, fun hzero => ?_, fun _ => ?_⟩
  · have hctr0 : u.chunkCtr = 0 := BitVec.eq_of_toNat_eq (by rw [hctr, lastChunk, hzero]; rfl)
    have hchunk0 : chunkLen u = 0 := by omega
    have hparts := (chunkLen_eq u).symm.trans hchunk0
    rw [hctr0, popcount_zero] at hcount
    exact ⟨hctr0, hchunk0, Fin.ext (by rw [Fin.val_zero]; omega), Fin.ext (by rw [Fin.val_zero]; omega),
      List.eq_nil_of_length_eq_zero hcount⟩
  · exact ⟨hctr, hchunk, hdone, by rw [chunkLen_eq]; omega, hcount⟩

/-- Settles O49: what the hasher holds of its input determines its chunk node. -/
theorem chunkNodeOfTheInput : Obligations.ChunkNodeOfTheInput := by
  intro s t ps hfresh hlen h hf
  have habsorbed : BytesAbsorbed (pieceBytes ps) s (withInput s.din s.outValid t) :=
    bytesAbsorbed_of_absorbPieces hfresh.ready hlen h hf s.din s.outValid
  exact (habsorbed.inputHeld hfresh.inputHeld).chunkNode_eq

/-! ### The empty chunk (R139) -/

theorem wordsLe_nil : wordsLe [] = Vector.replicate 16 0 := by decide

/-- Settles O48: a fresh hasher holds no byte, no block and no stack entry. -/
theorem emptyChunkNode : Obligations.EmptyChunkNode := by
  refine ⟨by decide, by decide, fun s => rfl, fun s h => ⟨?_, ?_⟩⟩
  · rw [chunkNode, startFlag, h.chunkCv, h.blockLen, h.chunkCtr, if_pos h.blocksDone, Fin.val_zero, List.take_zero,
      wordsLe_nil]
    rfl
  · rw [rootNode, h.stack]
    rfl

end Sys2Proof.Machine
end

section
/-! # Proofs: the tree-merge stack and the root (`42_tree.md`)

A merge climbs from the low bits of the chunk count, the reference trees split at its high bit. `mergeLoop_subtreeStack` and
`merkleRoot_eq_foldRoot` meet in between: both follow `subtreeStack` one bit at a time from the top, over a stack that ends in the
entries of the bits above (R166, R169). `TreeHeld` carries the resulting stack through the bytes of an input. -/

namespace Sys2Proof.Machine

/-! ### The stack in `merge` and in the root fold -/

/-- Settles O50: the loop finds an entry for each trailing zero of `total`. -/
theorem mergeKeepsTheCount : Obligations.MergeKeepsTheCount := by
  intro s ccv total htotal hcount
  obtain ⟨s', hmerge, hlen⟩ := merge_completes s ccv total htotal hcount
  obtain ⟨st, -, hs'⟩ := merge_some hmerge
  exact ⟨s', hmerge, by rw [hs'], hlen, popcount_le total⟩

theorem eq_zero_of_popcount_eq_zero {x : Counter} (h : popcount x = 0) : x = 0 := by
  refine BitVec.eq_of_getLsbD_eq fun i hi => ?_
  have hbit := List.countP_eq_zero.1 h i (List.mem_range.2 hi)
  exact (Bool.eq_false_iff.2 hbit).trans BitVec.getLsbD_zero.symm

theorem foldRoot_append (key : Cv) (mode : Mode) (xs ys : List Cv) (n : TreeNode) :
    foldRoot key mode (xs ++ ys) n = foldRoot key mode ys (foldRoot key mode xs n) := by
  induction xs generalizing n with
  | nil => rfl
  | cons x xs ih => exact ih _

/-- The oldest entry of a stack is folded in last. -/
theorem foldRoot_reverse_cons (key : Cv) (mode : Mode) (oldest : Cv) (st : List Cv) (n : TreeNode) :
    foldRoot key mode (oldest :: st).reverse n =
      parentNode key mode oldest (chainingValue (foldRoot key mode st.reverse n)) := by
  rw [List.reverse_cons, foldRoot_append]
  rfl

/-- Settles O53: the fold of no entry, of one, and of one more at the bottom. -/
theorem rootFoldCorners : Obligations.RootFoldCorners := by
  refine ⟨fun key mode left right => rfl, fun s hinv hready hrun hstack => ⟨?_, ?_⟩, fun s left hstack => ?_,
    fun s oldest => foldRoot_reverse_cons s.keyCv s.mode oldest s.stack (chunkNode s)⟩
  · have hcount := hinv.stack_popcount hready hrun
    rw [hstack] at hcount
    exact eq_zero_of_popcount_eq_zero hcount.symm
  · rw [rootNode, hstack]
    rfl
  · rw [rootNode, hstack]
    rfl

/-! ### The stack of complete subtrees, from its top bit (R166) -/

section
variable (key : Cv) (mode : Mode)

/-- Below `2 ^ k` chunks there is no subtree of `2 ^ k` chunks. -/
theorem subtreeStack_succ_of_lt {k : Nat} {cs : List Cv} (h : cs.length < 2 ^ k) :
    subtreeStack key mode (k + 1) cs = subtreeStack key mode k cs := by
  rw [subtreeStack, Nat.testBit_lt_two_pow h]
  rfl

/-- From `2 ^ k` chunks on, the oldest entry is over the first `2 ^ k`. -/
theorem subtreeStack_succ_of_le {k : Nat} {cs : List Cv} (hle : 2 ^ k ≤ cs.length) (hlt : cs.length < 2 ^ (k + 1)) :
    subtreeStack key mode (k + 1) cs =
      completeTree key mode k (cs.take (2 ^ k)) :: subtreeStack key mode k (cs.drop (2 ^ k)) := by
  rw [subtreeStack, Nat.testBit_of_two_pow_le_and_two_pow_add_one_gt hle hlt]
  rfl

theorem subtreeStack_nil (k : Nat) : subtreeStack key mode k [] = [] := by
  induction k with
  | zero => rfl
  | succ k ih => rw [subtreeStack_succ_of_lt key mode (Nat.two_pow_pos k), ih]

/-! ### A merge over that stack (R165, R172) -/

theorem toNat_ushiftRight_of_eq {x : Counter} {k m : Nat} (h : x.toNat = 2 ^ k * m) : (x >>> k).toNat = m := by
  rw [BitVec.toNat_ushiftRight, Nat.shiftRight_eq_div_pow, h, Nat.mul_div_cancel_left m (Nat.two_pow_pos k)]

/-- The chunk that completes a subtree of `2 ^ k` chunks takes every entry of that subtree with it. -/
theorem mergeLoop_completes_subtree {k m : Nat} {cs : List Cv} {total : Counter} (hlen : cs.length + 1 = 2 ^ k)
    (htotal : total.toNat = 2 ^ k * m) (older : List Cv) (c : Cv) :
    mergeLoop key mode ((subtreeStack key mode k cs).reverse ++ older) total c =
      mergeLoop key mode older (total >>> k) (completeTree key mode k (cs ++ [c])) := by
  induction k generalizing m cs older with
  | zero =>
    obtain rfl : cs = [] := List.eq_nil_of_length_eq_zero (by omega)
    simp [subtreeStack, completeTree]
  | succ k ih =>
    have hpos := Nat.two_pow_pos k
    rw [Nat.pow_succ] at hlen
    have htotal' : total.toNat = 2 ^ k * (2 * m) := by rw [htotal, Nat.pow_succ, Nat.mul_assoc]
    have heven : (total >>> k)[0] = false := by
      rw [counter_bit_zero, toNat_ushiftRight_of_eq htotal', decide_eq_false_iff_not]
      omega
    rw [subtreeStack_succ_of_le key mode (by omega) (by rw [Nat.pow_succ]; omega), List.reverse_cons, List.append_assoc,
      ih (by rw [List.length_drop]; omega) htotal', List.singleton_append, mergeLoop_even_cons key mode _ _ heven,
      ← BitVec.shiftRight_add, completeTree, List.take_append_of_le_length (by omega),
      List.drop_append_of_le_length (by omega)]

/-- Any other chunk changes the entries of the low bits alone. -/
theorem mergeLoop_subtreeStack {k m : Nat} {cs : List Cv} {total : Counter} (hlen : cs.length + 1 < 2 ^ k)
    (htotal : total.toNat = 2 ^ k * m + (cs.length + 1)) (older : List Cv) (c : Cv) :
    mergeLoop key mode ((subtreeStack key mode k cs).reverse ++ older) total c =
      some ((subtreeStack key mode k (cs ++ [c])).reverse ++ older) := by
  induction k generalizing m cs older with
  | zero => omega
  | succ k ih =>
    have hpow : 2 ^ (k + 1) * m = 2 ^ k * (2 * m) := by rw [Nat.pow_succ, Nat.mul_assoc]
    have hnext : (cs ++ [c]).length = cs.length + 1 := by rw [List.length_append, List.length_singleton]
    rcases Nat.lt_or_ge cs.length (2 ^ k) with hlow | hhigh
    · rw [subtreeStack_succ_of_lt key mode hlow]
      rcases Nat.lt_or_eq_of_le (Nat.succ_le_of_lt hlow) with hroom | hfull
      · rw [subtreeStack_succ_of_lt key mode (hnext ▸ hroom), ih hroom (m := 2 * m) (by omega)]
      · have htotal' : total.toNat = 2 ^ k * (2 * m + 1) := by rw [Nat.mul_add]; omega
        have hodd : (total >>> k)[0] = true := by
          rw [counter_bit_zero, toNat_ushiftRight_of_eq htotal', decide_eq_true_iff]
          omega
        rw [mergeLoop_completes_subtree key mode hfull htotal', mergeLoop_odd key mode _ hodd,
          subtreeStack_succ_of_le key mode (by omega) (by omega), List.take_of_length_le (by omega),
          List.drop_of_length_le (by omega), subtreeStack_nil]
        rfl
    · have htotal' : total.toNat = 2 ^ k * (2 * m + 1) + ((cs.drop (2 ^ k)).length + 1) := by
        rw [List.length_drop, Nat.mul_add]
        omega
      rw [subtreeStack_succ_of_le key mode hhigh (by omega), subtreeStack_succ_of_le key mode (by omega) (by omega),
        List.take_append_of_le_length hhigh, List.drop_append_of_le_length hhigh, List.reverse_cons, List.reverse_cons,
        List.append_assoc, List.append_assoc]
      exact ih (by rw [List.length_drop]; rw [Nat.pow_succ] at hlen; omega) htotal' _

end

theorem merge_subtreeStack {s : State} {cs : List Cv} {total : Counter}
    (hstack : s.stack = subtreeStack s.keyCv s.mode 64 cs) (htotal : total.toNat = cs.length + 1) (c : Cv) :
    merge c total s = some { s with stack := subtreeStack s.keyCv s.mode 64 (cs ++ [c]) } := by
  have hloop := mergeLoop_subtreeStack s.keyCv s.mode (k := 64) (m := 0) (htotal ▸ total.isLt)
    (by rw [Nat.mul_zero, Nat.zero_add, htotal]) [] c
  rw [List.append_nil, List.append_nil, ← hstack] at hloop
  rw [merge, hloop]
  simp only [List.reverse_reverse]

theorem mergeAll_subtreeStack {s : State} {cs ds : List Cv} (hstack : s.stack = subtreeStack s.keyCv s.mode 64 cs)
    (hlen : cs.length + ds.length < 2 ^ 64) :
    mergeAll ds (BitVec.ofNat 64 (cs.length + 1)) s =
      some { s with stack := subtreeStack s.keyCv s.mode 64 (cs ++ ds) } := by
  induction ds generalizing s cs with
  | nil => rw [List.append_nil, ← hstack, mergeAll]
  | cons d ds ih =>
    rw [List.length_cons] at hlen
    have htotal : (BitVec.ofNat 64 (cs.length + 1)).toNat = cs.length + 1 :=
      (BitVec.toNat_ofNat ..).trans (Nat.mod_eq_of_lt (by omega))
    have hnext : BitVec.ofNat 64 (cs.length + 1) + 1 = BitVec.ofNat 64 ((cs ++ [d]).length + 1) := by
      rw [List.length_append, List.length_singleton, BitVec.ofNat_add (cs.length + 1) 1]
      rfl
    rw [mergeAll, merge_subtreeStack hstack htotal]
    simp only
    rw [hnext, ih rfl (by rw [List.length_append, List.length_singleton]; omega), List.append_assoc, List.singleton_append]

/-- Settles O51: from the empty stack, chunk by chunk. -/
theorem stackHoldsCompleteSubtrees : Obligations.StackHoldsCompleteSubtrees := fun s _ hstack hlen =>
  mergeAll_subtreeStack (cs := []) (hstack.trans (subtreeStack_nil s.keyCv s.mode 64).symm) (by simpa using hlen)

/-! ### The root fold over that stack (R169, R170) -/

theorem leftLeaves_succ {k n : Nat} (hle : 2 ^ k ≤ n) (hlt : n < 2 ^ (k + 1)) : leftLeaves (n + 1) = 2 ^ k := by
  have hpos := Nat.two_pow_pos k
  rw [leftLeaves, Nat.add_sub_cancel, (Nat.log2_eq_iff (by omega)).2 ⟨hle, hlt⟩]

section
variable (key : Cv) (mode : Mode)

theorem merkleRoot_singleton (fuel : Nat) (n : TreeNode) : merkleRoot key mode fuel [n] = n := by
  cases fuel <;> rfl

/-- A tree over more than one leaf splits at the highest bit of the number of leaves before the last (R169). -/
theorem merkleRoot_succ {fuel k : Nat} {ns : List TreeNode} (hlow : 2 ^ k < ns.length) (hhigh : ns.length ≤ 2 ^ (k + 1)) :
    merkleRoot key mode (fuel + 1) ns =
      parentNode key mode (chainingValue (merkleRoot key mode fuel (ns.take (2 ^ k))))
        (chainingValue (merkleRoot key mode fuel (ns.drop (2 ^ k)))) := by
  have hpos := Nat.two_pow_pos k
  have hsplit := leftLeaves_succ (n := ns.length - 1) (k := k) (by omega) (by omega)
  rw [Nat.sub_add_cancel (by omega)] at hsplit
  rw [merkleRoot, if_neg (by omega), hsplit]

/-- The complete tree is the reference tree over a power of two of leaves. -/
theorem chainingValue_merkleRoot {k fuel : Nat} {ns : List TreeNode} (hlen : ns.length = 2 ^ k) (hfuel : k ≤ fuel) :
    chainingValue (merkleRoot key mode fuel ns) = completeTree key mode k (ns.map chainingValue) := by
  induction k generalizing fuel ns with
  | zero =>
    obtain ⟨n, rfl⟩ := List.length_eq_one_iff.1 hlen
    rw [merkleRoot_singleton]
    rfl
  | succ k ih =>
    obtain ⟨fuel, rfl⟩ := Nat.exists_eq_add_one_of_ne_zero (Nat.ne_zero_of_lt hfuel)
    have hfuel' := Nat.le_of_succ_le_succ hfuel
    have hpos := Nat.two_pow_pos k
    have hlen' : ns.length = 2 ^ k + 2 ^ k := by rw [hlen, Nat.pow_succ, Nat.mul_two]
    rw [merkleRoot_succ key mode (k := k) (by omega) (by omega), ih (by rw [List.length_take]; omega) hfuel',
      ih (by rw [List.length_drop]; omega) hfuel', completeTree, List.map_take, List.map_drop]

/-- The fold of the last leaf over the stack of the leaves before it is the reference tree over them all. -/
theorem merkleRoot_eq_foldRoot {k fuel : Nat} {ns : List TreeNode} (hlen : ns.length < 2 ^ k) (hfuel : ns.length ≤ fuel)
    (last : TreeNode) :
    merkleRoot key mode fuel (ns ++ [last]) =
      foldRoot key mode (subtreeStack key mode k (ns.map chainingValue)).reverse last := by
  induction k generalizing fuel ns with
  | zero =>
    obtain rfl : ns = [] := List.eq_nil_of_length_eq_zero (by omega)
    exact merkleRoot_singleton key mode fuel last
  | succ k ih =>
    rcases Nat.lt_or_ge ns.length (2 ^ k) with hlow | hhigh
    · rw [subtreeStack_succ_of_lt key mode (by rwa [List.length_map]), ih hlow hfuel]
    · have hpos := Nat.two_pow_pos k
      have hk := Nat.lt_two_pow_self (n := k)
      obtain ⟨fuel, rfl⟩ : ∃ f, fuel = f + 1 := ⟨fuel - 1, by omega⟩
      have hleft := chainingValue_merkleRoot key mode (k := k) (fuel := fuel) (ns := ns.take (2 ^ k))
        (by rw [List.length_take]; omega) (by omega)
      have hright := ih (fuel := fuel) (ns := ns.drop (2 ^ k))
        (by rw [List.length_drop]; rw [Nat.pow_succ] at hlen; omega) (by rw [List.length_drop]; omega)
      rw [subtreeStack_succ_of_le key mode (by rwa [List.length_map]) (by rwa [List.length_map]), foldRoot_reverse_cons,
        ← List.map_take, ← List.map_drop, ← hleft, ← hright,
        merkleRoot_succ key mode (k := k) (by rw [List.length_append, List.length_singleton]; omega)
          (by rw [List.length_append, List.length_singleton]; omega),
        List.take_append_of_le_length hhigh, List.drop_append_of_le_length hhigh]

/-! ### The stack of an input -/

/-- The nodes of the chunks of an input before its last, those the accumulator has merged. -/
def completedLeaves (bs : List Byte) : List TreeNode :=
  (List.range (lastChunk bs)).map fun k => leafNode key mode k (chunkBytes bs k)

theorem completedLeaves_length (bs : List Byte) : (completedLeaves key mode bs).length = lastChunk bs := by
  rw [completedLeaves, List.length_map, List.length_range]

theorem leafNodes_eq (bs : List Byte) :
    leafNodes key mode bs = completedLeaves key mode bs ++ [leafNode key mode (lastChunk bs) (lastChunkBytes bs)] := by
  have hcount : chunkCount bs = lastChunk bs + 1 := by rw [chunkCount, lastChunk]; omega
  rw [leafNodes, hcount, List.range_succ, List.map_append]
  rfl

/-- A later byte does not change a chunk that is full. -/
theorem chunkBytes_append {bs : List Byte} {k : Nat} (h : 1024 * (k + 1) ≤ bs.length) (xs : List Byte) :
    chunkBytes (bs ++ xs) k = chunkBytes bs k := by
  rw [chunkBytes, List.drop_append_of_le_length (by omega), List.take_append_of_le_length (by rw [List.length_drop]; omega)]
  rfl

theorem map_leafNode_chunkBytes_append {bs : List Byte} {n : Nat} (h : 1024 * n ≤ bs.length) (xs : List Byte) :
    ((List.range n).map fun k => leafNode key mode k (chunkBytes (bs ++ xs) k)) =
      (List.range n).map fun k => leafNode key mode k (chunkBytes bs k) := by
  refine List.map_congr_left fun k hk => ?_
  rw [chunkBytes_append (by have := List.mem_range.1 hk; omega)]

theorem completedLeaves_append_of_room {bs : List Byte} (h : (lastChunkBytes bs).length < 1024) (x : Byte) :
    completedLeaves key mode (bs ++ [x]) = completedLeaves key mode bs := by
  rw [completedLeaves, (lastChunk_append_of_room h x).1,
    map_leafNode_chunkBytes_append key mode (by rw [lastChunk]; omega)]
  rfl

/-- The byte after a full chunk completes it. -/
theorem completedLeaves_append_of_full {bs : List Byte} (h : (lastChunkBytes bs).length = 1024) (x : Byte) :
    completedLeaves key mode (bs ++ [x]) =
      completedLeaves key mode bs ++ [leafNode key mode (lastChunk bs) (lastChunkBytes bs)] := by
  rw [completedLeaves, (lastChunk_append_of_full h x).1,
    map_leafNode_chunkBytes_append key mode (by rw [lastChunkBytes_length] at h; omega), List.range_succ, List.map_append]
  rfl

end

/-- A hasher that has absorbed `bs`, with the complete subtrees of its completed chunks on the stack. -/
structure TreeHeld (key : Cv) (mode : Mode) (bs : List Byte) (s : State) : Prop where
  input : InputHeld key mode bs s
  stack_eq : s.stack = subtreeStack key mode 64 ((completedLeaves key mode bs).map chainingValue)

theorem FreshHasher.treeHeld {s : State} (h : FreshHasher s) : TreeHeld s.keyCv s.mode [] s where
  input := h.inputHeld
  stack_eq := h.stack.trans (subtreeStack_nil s.keyCv s.mode 64).symm

section
variable {key : Cv} {mode : Mode} {bs : List Byte} {s t : State}

theorem bufferByte_stack (x : Byte) (s : State) : (bufferByte x s).stack = s.stack := by
  unfold bufferByte
  split <;> rfl

theorem ByteStep.treeHeld {x : Byte} (hstep : ByteStep x s t) (h : TreeHeld key mode bs s) :
    TreeHeld key mode (bs ++ [x]) t := by
  refine ⟨hstep.inputHeld h.input, ?_⟩
  have hchunk := h.input.chunk
  obtain rfl := hchunk.keyCv_eq
  obtain rfl := hchunk.mode_eq
  have hlen := hchunk.length_eq
  cases hstep with
  | buffered hroom =>
    have hroom' : (lastChunkBytes bs).length < 1024 := by
      rw [hlen, lastChunkBytes_length, lastChunk] at hroom
      rw [lastChunkBytes_length, lastChunk]
      omega
    rw [bufferByte_stack, h.stack_eq, completedLeaves_append_of_room _ _ hroom']
  | @rotated s' hfull hctr hmerge =>
    have htotal : (s.chunkCtr + 1).toNat = ((completedLeaves s.keyCv s.mode bs).map chainingValue).length + 1 := by
      rw [List.length_map, completedLeaves_length, ← hchunk.chunkCtr_toNat]
      bv_omega
    rw [merge_subtreeStack h.stack_eq htotal, Option.some.injEq] at hmerge
    rw [bufferByte_stack, freshChunk_stack, ← hmerge, completedLeaves_append_of_full _ _ (hlen.symm.trans hfull),
      List.map_append, h.input.chunkNode_eq]
    rfl

theorem BytesAbsorbed.treeHeld {xs : List Byte} (habsorbed : BytesAbsorbed xs s t) (h : TreeHeld key mode bs s) :
    TreeHeld key mode (bs ++ xs) t := by
  induction habsorbed generalizing bs with
  | nil => rwa [List.append_nil]
  | cons hstep _ ih =>
    rw [List.append_cons]
    exact ih (hstep.treeHeld h)

theorem TreeHeld.rootNode_eq (h : TreeHeld key mode bs s) :
    rootNode s = merkleRoot key mode (leafNodes key mode bs).length (leafNodes key mode bs) := by
  have hlen : (completedLeaves key mode bs).length < 2 ^ 64 := by
    rw [completedLeaves_length, ← h.input.chunk.chunkCtr_toNat]
    exact s.chunkCtr.isLt
  rw [rootNode, h.input.chunkNode_eq, h.stack_eq, h.input.chunk.keyCv_eq, h.input.chunk.mode_eq, leafNodes_eq,
    merkleRoot_eq_foldRoot key mode hlen (by rw [List.length_append]; exact Nat.le_add_right _ _)]

end

/-- Settles O52: the stack and the chunk node that an input leaves determine the root. -/
theorem rootIsTheMerkleRoot : Obligations.RootIsTheMerkleRoot := by
  intro s t ps hfresh hlen h hf
  have habsorbed : BytesAbsorbed (pieceBytes ps) s (withInput s.din s.outValid t) :=
    bytesAbsorbed_of_absorbPieces hfresh.ready hlen h hf s.din s.outValid
  exact (habsorbed.treeHeld hfresh.treeHeld).rootNode_eq

end Sys2Proof.Machine
end

section
/-! # Proofs: mode initialization and control (`43_control.md`)

A command that begins a hasher leaves `hasherInit`, and one that is rejected leaves `recordError`; the statements about single
commands read those two states. The worked examples are inputs of one chunk: their digest is that of the chunk's node alone,
whatever the hasher's seed (`TreeHeld.rootDigest_eq`), so that only that node is left to compute. -/

namespace Sys2Proof.Machine

/-! ### `NOP`, `RESET` and `CLEAR_ERR` (R180, R181, R195) -/

/-- Settles O27: the command is the same whether it is ignored or runs, and its opcode takes no argument. -/
theorem nopChangesNothing : Obligations.NopChangesNothing :=
  ⟨rfl, fun _ => ite_self _, fun _ hop hc =>
    exists_decode_error_of_opcode (i := .nop) rfl (congrArg BitVec.toNat hop) hc⟩

theorem readReg_resetAction (r : Reg) (s : State) : readReg r (resetAction s) = readReg r State.reset := by
  cases r <;> rfl

/-- Settles O28: the command is the reset action, and no register shows the two fields that action keeps. -/
theorem resetCommand : Obligations.ResetCommand := by
  refine ⟨rfl, fun s => ⟨rfl, rfl⟩, fun s t h => ?_⟩
  cases h
  obtain ⟨-, -, hzero⟩ := resetReads
  have hread (r : Reg) (hid : r ≠ .id) (hconfig : r ≠ .config) (hcmd : r ≠ .cmd) :
      readReg r (resetAction s) = some 0 := (readReg_resetAction r s).trans (hzero r hid hconfig hcmd)
  refine ⟨hread _ (by decide) (by decide) (by decide), hread _ (by decide) (by decide) (by decide), fun r hrw => ?_⟩
  exact hread r (by rintro rfl; cases hrw) (by rintro rfl; cases hrw) (by rintro rfl; cases hrw)

theorem clearRecord_of_clear {s : State} (hinv : BlockInv s) (hclear : s.err = false) : clearRecord s = s := by
  obtain ⟨hcode, hcmd⟩ := hinv.no_error_record hclear
  cases s
  cases hclear
  cases hcode
  cases hcmd
  rfl

/-- Settles O33: the invariant says that a clear record holds no code and no word. -/
theorem clearErrClearsTheRecord : Obligations.ClearErrClearsTheRecord :=
  ⟨rfl, fun _ hfault => unlessFaulted_of_fault hfault _, fun s hrun =>
    ⟨clearRecord s, unlessFaulted_of_running hrun _, rfl, clearRecord_of_clear⟩⟩

/-! ### A rejected command with and without an error recorded (R240) -/

theorem exec_of_rejects_of_err {i : Instr} {s : State} {e : ErrCode} (hrun : s.fault = false) (hrej : Rejects i s e)
    (herr : s.err = true) : exec i s = .next s := by
  rw [exec_of_rejects hrun hrej, recordError_of_err herr]

theorem exec_of_rejects_of_clear {i : Instr} {s : State} {e : ErrCode} (hrun : s.fault = false) (hrej : Rejects i s e)
    (hclear : s.err = false) : exec i s = .next { s with err := true, errcode := e, errCmd := encode i } := by
  rw [exec_of_rejects hrun hrej, recordError_of_clear hclear]

/-! ### A hasher just begun (R182) -/

theorem hasherInit_freshHasher (key : Cv) (mode : Mode) {s : State} (hrun : s.fault = false) :
    FreshHasher (hasherInit key mode s) where
  ready := rfl
  running := hrun
  stack := rfl
  chunkCv := rfl
  block := rfl
  blockLen := rfl
  blocksDone := rfl
  chunkCtr := rfl

theorem high32_zero : high32 0 = 0 := by decide

/-- The counts a host reads of a hasher just begun. -/
theorem readReg_counts_hasherInit (key : Cv) (mode : Mode) (s : State) :
    readReg .chunkCtrLo (hasherInit key mode s) = some 0 ∧ readReg .chunkCtrHi (hasherInit key mode s) = some 0 ∧
    readReg .chunkLen (hasherInit key mode s) = some 0 ∧ readReg .stackDepth (hasherInit key mode s) = some 0 ∧
    readReg .outCtrLo (hasherInit key mode s) = some 0 ∧ readReg .outCtrHi (hasherInit key mode s) = some 0 :=
  ⟨rfl, congrArg some high32_zero, rfl, rfl, rfl, congrArg some high32_zero⟩

/-! ### The first output block (R210, R212) -/

theorem exec_finalize_of_running {s : State} (hrun : s.fault = false) (hready : s.ready = true) :
    exec .finalize s = .next { s with onode := captureRoot (rootNode s), outCtr := 0, outValid := true } := by
  simp [exec, execFinalize, unlessFaulted_of_running hrun, hready]

theorem exec_squeeze_of_running {s : State} (hrun : s.fault = false) (hready : s.ready = true)
    (hvalid : s.outValid = true) :
    exec .squeeze s = .next { s with dout := outputBlock s.onode s.outCtr, outCtr := s.outCtr + 1 } := by
  simp [exec, execSqueeze, unlessFaulted_of_running hrun, hready, hvalid]

/-- `FINALIZE` and then `SQUEEZE` give output block 0 of the current root. -/
theorem exec_finalize_squeeze {s : State} (hrun : s.fault = false) (hready : s.ready = true) :
    ∃ u v : State, exec .finalize s = .next u ∧ exec .squeeze u = .next v ∧
      v.dout = outputBlock (captureRoot (rootNode s)) 0 := by
  have hsqueeze := exec_squeeze_of_running
    (s := { s with onode := captureRoot (rootNode s), outCtr := 0, outValid := true }) hrun hready rfl
  exact ⟨_, _, exec_finalize_of_running hrun hready, hsqueeze, rfl⟩

/-! ### `INIT_HASH` and `INIT_DERIVE_CONTEXT` (R186, R190) -/

/-- Settles O29: the command begins a hasher of the IV, and `STATUS` after it is evaluated from reset. -/
theorem initHashStartsAPlainHasher : Obligations.InitHashStartsAPlainHasher := by
  refine ⟨rfl, fun s hfault => unlessFaulted_of_fault hfault _, fun s hrun => ?_, fun t h => ?_⟩
  · obtain ⟨hctrLo, hctrHi, hlen, hdepth, houtLo, houtHi⟩ := readReg_counts_hasherInit iv .plain s
    exact ⟨hasherInit iv .plain s, exec_of_inits hrun ⟨rfl, rfl⟩, rfl, hctrLo, hctrHi, hlen, hdepth, houtLo, houtHi, rfl⟩
  · cases h
    rfl

/-- Settles O31: the command begins a hasher of the IV, which has an output block like any other. -/
theorem initDeriveContextStartsTheContextPhase : Obligations.InitDeriveContextStartsTheContextPhase := by
  refine ⟨rfl, fun s hfault => unlessFaulted_of_fault hfault _, fun s hrun => ?_, fun t h => ?_⟩
  · exact ⟨hasherInit iv .deriveContext s, exec_of_inits hrun ⟨rfl, rfl⟩, rfl, rfl, exec_finalize_squeeze hrun rfl⟩
  · cases h
    rfl

/-! ### The digest of an input of one chunk -/

/-- The first eight words of output block 0 of the root of everything absorbed so far. -/
def rootDigest (s : State) : Cv := cvOf (outputBlock (captureRoot (rootNode s)) 0)

theorem contextKey_eq_rootDigest (s : State) : contextKey s = rootDigest s := rfl

/-- The digest of an input `bs` of at most one chunk under a hasher's seed and mode. -/
def chunkDigest (key : Cv) (mode : Mode) (bs : List Byte) : Cv :=
  cvOf (outputBlock (captureRoot (leafNode key mode 0 bs)) 0)

/-- R171: the root of an input of one chunk is that chunk's node. -/
theorem TreeHeld.rootDigest_eq {key : Cv} {mode : Mode} {bs : List Byte} {s : State} (h : TreeHeld key mode bs s)
    (hlen : bs.length ≤ 1024) : rootDigest s = chunkDigest key mode bs := by
  have hlast : lastChunk bs = 0 := by rw [lastChunk]; omega
  have hbytes : lastChunkBytes bs = bs := by rw [lastChunkBytes_eq_drop, hlast]; rfl
  have hleaves : leafNodes key mode bs = [leafNode key mode 0 bs] := by
    rw [leafNodes_eq, completedLeaves, hbytes, hlast]
    rfl
  rw [rootDigest, h.rootNode_eq, hleaves, merkleRoot_singleton, chunkDigest]

theorem TreeHeld.map_withInput {key : Cv} {mode : Mode} {bs : List Byte} {s : State} (h : TreeHeld key mode bs s)
    (d : Words16) (v : Bool) : TreeHeld key mode bs (withInput d v s) :=
  ⟨h.input.map_withInput d v, h.stack_eq⟩

/-- One `ABSORB` after a hasher is begun takes its whole piece. -/
theorem FreshHasher.absorbPiece_next {p : Nat × Words16} {s t : State} (hfresh : FreshHasher s) (hp : p.1 ≤ 64)
    (h : absorbPiece p s = .next t) :
    t.fault = false ∧ t.ready = true ∧ TreeHeld s.keyCv s.mode (pieceBytes [p]) t := by
  have hps : ∀ q ∈ [p], q.1 ≤ 64 := by simpa using hp
  have hpieces : absorbPieces [p] s = .next t := by rw [absorbPieces, h]; rfl
  have hlen : (pieceBytes [p]).length ≤ 64 := by simp [pieceBytes, hp]
  obtain ⟨u, hu, hrun, -⟩ := progressCounts s [p] hfresh hps (by omega)
  cases hpieces.symm.trans hu
  have habsorbed : BytesAbsorbed (pieceBytes [p]) (withInput t.din t.outValid s) t :=
    bytesAbsorbed_of_absorbPieces hfresh.ready hps hpieces hrun t.din t.outValid
  exact ⟨hrun, (habsorbed.ready hfresh.running).trans hfresh.ready,
    habsorbed.treeHeld (hfresh.treeHeld.map_withInput t.din t.outValid)⟩

/-! ### `INIT_KEYED` (R188) -/

/-- The key of R188's worked example, the text "whats the Elvish word for friend". -/
def elvishKey : Cv := #v[0x74616877, 0x68742073, 0x6c452065, 0x68736976, 0x726f7720, 0x6f662064, 0x72662072, 0x646e6569]

/-- V-HASH at `n = 0`: the keyed hash of the empty input. -/
theorem chunkDigest_elvishKey_nil :
    chunkDigest elvishKey .keyed [] = #v[0x56b7b292, 0x763ced04, 0x626f9d1f, 0x928a2c39, 0xa30ead27, 0xe77395f0,
      0x8a49f183, 0x260dd64e] := by
  decide +kernel

/-- Settles O30: every length but 32 is rejected, and the hasher begun keeps its own copy of the key. -/
theorem initKeyedStartsAKeyedHasher : Obligations.InitKeyedStartsAKeyedHasher := by
  refine ⟨rfl, fun a s hfault => unlessFaulted_of_fault hfault _,
    fun a s hrun ha herr => exec_of_rejects_of_err hrun ⟨ha, rfl⟩ herr,
    fun a s hrun ha hclear => exec_of_rejects_of_clear hrun ⟨ha, rfl⟩ hclear,
    fun s hrun => ⟨hasherInit s.key .keyed s, exec_of_inits hrun ⟨rfl, rfl, rfl⟩, rfl, rfl⟩,
    fun k v s => ⟨_, hostWrite_rw (r := .key k) rfl v s, rfl⟩, fun t h => ?_⟩
  cases h
  have hheld := (hasherInit_freshHasher elvishKey .keyed (s := { State.reset with key := elvishKey }) rfl).treeHeld
  exact (hheld.rootDigest_eq (by decide)).trans chunkDigest_elvishKey_nil

/-! ### `INIT_DERIVE_MATERIAL` (R192) -/

/-- R192's worked example, the context "meowmeowverysecuremeowmeow". -/
def contextPiece : Nat × Words16 :=
  (26, #v[0x776f656d, 0x776f656d, 0x79726576, 0x75636573, 0x656d6572, 0x656d776f, 0x0000776f, 0, 0, 0, 0, 0, 0, 0, 0, 0])

/-- R192's worked example, the key material "This is a string". -/
def materialPiece : Nat × Words16 :=
  (16, #v[0x73696854, 0x20736920, 0x74732061, 0x676e6972, 0, 0, 0, 0, 0, 0, 0, 0, 0, 0, 0, 0])

theorem chunkDigest_contextPiece :
    chunkDigest iv .deriveContext (pieceBytes [contextPiece]) = #v[0xed6963c9, 0x6492bde4, 0xa5f89cb9, 0x43c373cc,
      0x1b8b381f, 0x8c3057a8, 0xc9e29038, 0x399ada80] := by
  decide +kernel

/-- P3: the key derivation of the worked example. -/
theorem chunkDigest_materialPiece :
    chunkDigest (chunkDigest iv .deriveContext (pieceBytes [contextPiece])) .deriveMaterial (pieceBytes [materialPiece]) =
      #v[0xe5e78d34, 0x2104f8f8, 0x0d129869, 0xd2c6051d, 0xbd50d233, 0xdb2002f4, 0xc19523f0, 0xf7739af8] := by
  rw [chunkDigest_contextPiece]
  decide +kernel

/-- R192: the seed is taken from the hasher alone, not from `S.onode`, `S.out_ctr` or `DOUT`. -/
theorem exec_initDeriveMaterial_output {s t : State} (h : exec .initDeriveMaterial s = .next t) (n : RootNode)
    (k : Counter) (d : Words16) :
    ∃ t', exec .initDeriveMaterial { s with onode := n, outCtr := k, dout := d } = .next t' ∧ t'.keyCv = t.keyCv := by
  cases exec_next h with
  | ignored _ hfault => exact ⟨_, unlessFaulted_of_fault (s := { s with onode := n, outCtr := k, dout := d }) hfault _, rfl⟩
  | rejected hrun hrej =>
    refine ⟨_, exec_of_rejects (s := { s with onode := n, outCtr := k, dout := d }) hrun hrej, ?_⟩
    rw [recordError_keyCv, recordError_keyCv]
  | inited hrun hinit =>
    exact ⟨_, exec_of_inits (s := { s with onode := n, outCtr := k, dout := d }) hrun hinit, rfl⟩

/-- Settles O32: the checks in their order, the seed from the current root, and the two phases of the worked example as one
chunk each. -/
theorem initDeriveMaterialSeedsTheMaterialPhase : Obligations.InitDeriveMaterialSeedsTheMaterialPhase := by
  refine ⟨rfl, fun s hfault => unlessFaulted_of_fault hfault _, fun s hrun hrej herr => ?errored,
    fun s hrun hready hclear => exec_of_rejects_of_clear hrun (.inl ⟨hready, rfl⟩) hclear,
    fun s hrun hready hmode hclear => exec_of_rejects_of_clear hrun (.inr ⟨hready, hmode, rfl⟩) hclear,
    fun s hrun hready hmode => ?seeded, fun s t n k d h => exec_initDeriveMaterial_output h n k d,
    fun s1 s2 s3 s4 s5 s6 h1 h2 h3 h4 h5 h6 => ?worked⟩
  case errored =>
    have hfails : Fails .initDeriveMaterial s s := (fails_initDeriveMaterial s s).2 hrej
    obtain ⟨e, he⟩ | ⟨⟨n, hn⟩, -⟩ := hfails
    · exact exec_of_rejects_of_err hrun he herr
    · cases hn
  case seeded =>
    exact ⟨contextKey s, hasherInit (contextKey s) .deriveMaterial s, rfl, exec_of_inits hrun ⟨hready, hmode, rfl, rfl⟩,
      rfl, rfl, readReg_counts_hasherInit ..⟩
  case worked =>
    cases h1
    have hfresh := hasherInit_freshHasher iv .deriveContext (s := State.reset) rfl
    obtain ⟨hrun, hready, hcontext⟩ := hfresh.absorbPiece_next (p := contextPiece) (by decide) h2
    have hmode : s2.mode = .deriveContext := hcontext.input.chunk.mode_eq
    have hseed : contextKey s2 = chunkDigest iv .deriveContext (pieceBytes [contextPiece]) :=
      (contextKey_eq_rootDigest s2).trans (hcontext.rootDigest_eq (by decide))
    have hinit : Inits .initDeriveMaterial s2 (contextKey s2) .deriveMaterial := ⟨hready, hmode, rfl, rfl⟩
    rw [exec_of_inits hrun hinit, hseed] at h3
    cases h3
    have hfresh' := hasherInit_freshHasher (chunkDigest iv .deriveContext (pieceBytes [contextPiece])) .deriveMaterial hrun
    obtain ⟨hrun', hready', hmaterial⟩ := hfresh'.absorbPiece_next (p := materialPiece) (by decide) h4
    obtain ⟨u, v, hu, hv, hdout⟩ := exec_finalize_squeeze hrun' hready'
    cases h5.symm.trans hu
    cases h6.symm.trans hv
    rw [hdout]
    exact (hmaterial.rootDigest_eq (by decide)).trans chunkDigest_materialPiece

end Sys2Proof.Machine
end

section
/-! # Proofs: root finalization and extendable output (`44_output.md`)

`FINALIZE` and `SQUEEZE` write only the output fields, which the root node does not read: a second `FINALIZE` captures the same
node, and the `j`-th `SQUEEZE` still reads the node that the first one read. -/

namespace Sys2Proof.Machine

/-! ### The frame of the output commands (R219) -/

/-- `t` differs from `s` at most in `S.onode`, `S.out_ctr`, `S.out_valid` and `DOUT`. -/
def OutputFrame (s t : State) : Prop :=
  t = { s with onode := t.onode, outCtr := t.outCtr, outValid := t.outValid, dout := t.dout }

section
variable {s t : State}

theorem OutputFrame.fault (h : OutputFrame s t) : t.fault = s.fault := by rw [h]

theorem OutputFrame.ready (h : OutputFrame s t) : t.ready = s.ready := by rw [h]

theorem OutputFrame.rootNode_eq (h : OutputFrame s t) : rootNode t = rootNode s := by
  rw [h]
  rfl

theorem exec_outputFrame {i : Instr} (hrun : s.fault = false) (hready : s.ready = true)
    (hi : i = .finalize ∨ (i = .squeeze ∧ s.outValid = true)) (h : exec i s = .next t) : OutputFrame s t := by
  obtain rfl | ⟨rfl, hvalid⟩ := hi
  · cases h.symm.trans (exec_finalize_of_running hrun hready)
    rfl
  · cases h.symm.trans (exec_squeeze_of_running hrun hready hvalid)
    rfl

end

/-- Settles O55: the second `FINALIZE` captures the root of a state with the same root. -/
theorem outputKeepsTheHasher : Obligations.OutputKeepsTheHasher := by
  intro i s t hrun hready hi h
  have hframe : OutputFrame s t := exec_outputFrame hrun hready hi h
  refine ⟨hframe, hframe.rootNode_eq, fun u v hu hv => ?_⟩
  cases hu.symm.trans (exec_finalize_of_running hrun hready)
  cases hv.symm.trans (exec_finalize_of_running (hframe.fault.trans hrun) (hframe.ready.trans hready))
  exact ⟨congrArg captureRoot hframe.rootNode_eq, rfl⟩

/-! ### Repeated `SQUEEZE` (R213) -/

theorem squeezeTimes_succ_of_next {j : Nat} {s t : State} (h : squeezeTimes j s = .next t) :
    squeezeTimes (j + 1) s = exec .squeeze t := by
  rw [squeezeTimes, h]

/-- The state that `j + 1` `SQUEEZE`s leave: `DOUT` is the output block `j` past the counter they began at. -/
def afterSqueezes (j : Nat) (s : State) : State :=
  { s with dout := outputBlock s.onode (s.outCtr + BitVec.ofNat 64 j), outCtr := s.outCtr + BitVec.ofNat 64 (j + 1) }

theorem squeezeTimes_succ {s : State} (hrun : s.fault = false) (hready : s.ready = true) (hvalid : s.outValid = true)
    (j : Nat) : squeezeTimes (j + 1) s = .next (afterSqueezes j s) := by
  induction j with
  | zero =>
    rw [squeezeTimes_succ_of_next rfl, exec_squeeze_of_running hrun hready hvalid, afterSqueezes, BitVec.add_zero]
    rfl
  | succ j ih =>
    have hctr : (afterSqueezes j s).outCtr + 1 = s.outCtr + BitVec.ofNat 64 (j + 1 + 1) := by
      rw [BitVec.ofNat_add (j + 1), ← BitVec.add_assoc]
      rfl
    rw [squeezeTimes_succ_of_next ih, exec_squeeze_of_running (s := afterSqueezes j s) hrun hready hvalid, hctr]
    rfl

/-- Settles O54: `FINALIZE` captures the root and begins the count at 0. -/
theorem squeezedBlocks : Obligations.SqueezedBlocks := by
  intro s s' j hrun hready h hpos _
  obtain ⟨k, rfl⟩ := Nat.exists_eq_add_of_le' hpos
  cases h.symm.trans (exec_finalize_of_running hrun hready)
  have hdout : outputBlock (captureRoot (rootNode s)) (0 + BitVec.ofNat 64 k) =
      outputBlock (captureRoot (rootNode s)) (BitVec.ofNat 64 (k + 1 - 1)) :=
    congrArg (outputBlock _) (BitVec.zero_add _)
  refine ⟨_, squeezeTimes_succ ?running ?ready rfl k, BitVec.zero_add _, hdout,
    congrArg (fun w : Words16 => bytesLe w.toList) hdout⟩
  exacts [hrun, hready]

/-! ### `FINALIZE` (R210) -/

/-- Settles O34: the captured node does not depend on the fields the command writes, and the empty hasher's root is the empty
chunk's node. -/
theorem finalizeCapturesTheRoot : Obligations.FinalizeCapturesTheRoot := by
  refine ⟨rfl, fun s hfault => unlessFaulted_of_fault hfault _,
    fun s hrun hready herr => exec_of_rejects_of_err hrun ⟨hready, rfl⟩ herr,
    fun s hrun hready hclear => exec_of_rejects_of_clear hrun ⟨hready, rfl⟩ hclear,
    fun s hrun hready => ⟨_, exec_finalize_of_running hrun hready, rfl, exec_finalize_of_running hrun hready⟩,
    fun s t hinit h => ?_⟩
  cases hinit
  cases h.symm.trans (exec_finalize_of_running rfl rfl)
  obtain ⟨-, -, -, hfresh⟩ := emptyChunkNode
  obtain ⟨hchunk, hroot⟩ := hfresh _ (hasherInit_freshHasher iv .plain (s := State.reset) rfl)
  refine ⟨?_, rfl⟩
  rw [hroot, hchunk]
  rfl

/-! ### `SQUEEZE` (R212) -/

theorem exists_rejects_squeeze {s : State} (h : s.ready = false ∨ s.outValid = false) : ∃ e, Rejects .squeeze s e := by
  cases hready : s.ready with
  | false => exact ⟨_, .inl ⟨hready, rfl⟩⟩
  | true => exact ⟨_, .inr ⟨hready, h.resolve_left (by simp [hready]), rfl⟩⟩

/-- The root is chunk 0 or a parent node (R171, R162). -/
theorem rootNode_t {s : State} (hinv : BlockInv s) (hready : s.ready = true) (hrun : s.fault = false) :
    (rootNode s).t = 0 := by
  obtain ⟨-, hempty, -, -⟩ := rootFoldCorners
  cases hstack : s.stack with
  | nil =>
    obtain ⟨hctr, hroot⟩ := hempty s hinv hready hrun hstack
    rw [hroot]
    exact hctr
  | cons oldest newer =>
    rw [rootNode, hstack, foldRoot_reverse_cons]
    rfl

/-- V-LIT-1 (R221): the plain hash of the text of R192's key material, which is R212's worked example too. -/
theorem chunkDigest_plain_materialPiece :
    chunkDigest iv .plain (pieceBytes [materialPiece]) = #v[0x9f748b71, 0x5712a612, 0xa62e8b43, 0xfd553564, 0xc9015099,
      0x7684ffd9, 0x26f8934f, 0xf280a710] := by
  decide +kernel

theorem cvOf_get_zero (out : Words16) : (cvOf out)[0] = out[0] :=
  Vector.getElem_ofFn _

/-- Settles O35: the checks in their order, the block at `S.out_ctr`, and the worked example as the node of one chunk. -/
theorem squeezeGivesTheNextBlock : Obligations.SqueezeGivesTheNextBlock := by
  refine ⟨rfl, fun s hfault => unlessFaulted_of_fault hfault _, fun s hrun hrej herr => ?errored,
    fun s hrun hready hclear => exec_of_rejects_of_clear hrun (.inl ⟨hready, rfl⟩) hclear,
    fun s hrun hready hvalid hclear => exec_of_rejects_of_clear hrun (.inr ⟨hready, hvalid, rfl⟩) hclear,
    fun s hrun hready hvalid => exec_squeeze_of_running hrun hready hvalid, by decide,
    fun s hinv hready hrun => rootNode_t hinv hready hrun, fun s1 s2 s3 s4 h1 h2 h3 h4 => ?worked⟩
  case errored =>
    obtain ⟨e, he⟩ := exists_rejects_squeeze hrej
    exact exec_of_rejects_of_err hrun he herr
  case worked =>
    cases h1
    have hfresh := hasherInit_freshHasher iv .plain (s := State.reset) rfl
    obtain ⟨hrun, hready, hheld⟩ := hfresh.absorbPiece_next (p := materialPiece) (by decide) h2
    obtain ⟨u, v, hu, hv, hdout⟩ := exec_finalize_squeeze hrun hready
    cases h3.symm.trans hu
    cases h4.symm.trans hv
    have hdigest : cvOf s4.dout = chunkDigest iv .plain (pieceBytes [materialPiece]) := by
      rw [hdout]
      exact hheld.rootDigest_eq (by decide)
    have hword : s4.dout[0] = 0x9f748b71 := by
      rw [← cvOf_get_zero, hdigest, chunkDigest_plain_materialPiece]
      rfl
    exact congrArg some hword

end Sys2Proof.Machine
end

section
/-! # Proofs: errors and the fault stop (`60_exceptions.md`)

A command that leaves an error recorded was either rejected by a check of R239, and then only the record changed, or was an `ABSORB`
that took the overflow fault (`ExecStep.raised`); with the illegal words of R232 that is every error (`WordStep.raised`). An error
raised while one is recorded changes no record (`WordStep.recordKept`). -/

namespace Sys2Proof.Machine

/-! ### The fault stop (R241) -/

theorem exec_of_fault {i : Instr} {s : State} (hfault : s.fault = true) (hi : i ≠ .reset) : exec i s = .next s := by
  cases i with
  | reset => exact absurd rfl hi
  | _ => exact unlessFaulted_of_fault hfault _

theorem executeWord_of_fault {c : Word} {s : State} (hfault : s.fault = true) (hc : c ≠ encode .reset) :
    executeWord c s = .next s := by
  obtain ⟨e, hd⟩ | ⟨i, hd⟩ := decode_total c
  · exact (executeWord_of_error hd s).trans (unlessFaulted_of_fault hfault _)
  · obtain rfl := eq_encode_of_decode hd
    exact (executeWord_of_ok hd s).trans (exec_of_fault hfault fun hreset => hc (congrArg encode hreset))

/-- Settles O17: the guard of every command but `RESET`, the rules of the port in any state, and what an event does to `S.fault`. -/
theorem faultStop : Obligations.FaultStop := by
  refine fun s hfault => ⟨rfl, fun c hc => executeWord_of_fault hfault hc, fun r v hread => hostRead_of_readReg hread,
    fun r v hrw => hostWrite_rw hrw v s, fun e t h hclear => ?_⟩
  obtain hkept | hreset | ⟨n, c, u, -, -, -, -, rfl⟩ := (serve_next h).fault
  · exact absurd (hkept.symm.trans hclear) (by simp [hfault])
  · exact hreset
  · exact absurd hclear (by simp)

/-! ### Which check comes first (R242) -/

/-- Settles O18: each clause is one check of R239, whose rejection records its code and the command's word. -/
theorem checkOrder : Obligations.CheckOrder := fun _ hrun hclear =>
  ⟨fun hready n => exec_of_rejects_of_clear (i := .absorb n) hrun (.inl ⟨hready, rfl⟩) hclear,
    fun hready n hn => exec_of_rejects_of_clear (i := .absorb n) hrun (.inr ⟨hready, hn, rfl⟩) hclear,
    fun hready => exec_of_rejects_of_clear hrun ⟨hready, rfl⟩ hclear,
    fun hready => exec_of_rejects_of_clear hrun (.inl ⟨hready, rfl⟩) hclear,
    fun hready hvalid => exec_of_rejects_of_clear hrun (.inr ⟨hready, hvalid, rfl⟩) hclear,
    fun hready => exec_of_rejects_of_clear hrun (.inl ⟨hready, rfl⟩) hclear,
    fun hready hmode => exec_of_rejects_of_clear hrun (.inr ⟨hready, hmode, rfl⟩) hclear,
    fun a ha => exec_of_rejects_of_clear (i := .initKeyed a) hrun ⟨ha, rfl⟩ hclear⟩

/-! ### The first error is kept (R240, R245) -/

theorem RecordKept.refl (s : State) : RecordKept s s := ⟨rfl, rfl, rfl⟩

theorem RecordKept.err {s t : State} (h : RecordKept s t) : t.err = s.err := by
  obtain ⟨herr, -, -⟩ := h
  exact herr

theorem recordError_recordKept {s : State} (herr : s.err = true) (e : ErrCode) (c : Word) :
    RecordKept s (recordError e c s) := by
  rw [recordError_of_err herr]
  exact .refl s

/-- Beside recording its error, the overflow fault only sets `S.fault`. -/
theorem chunkOverflowFault_recordKept {s : State} (herr : s.err = true) (c : Word) :
    RecordKept s (chunkOverflowFault c s) :=
  recordError_recordKept herr .counterOverflow c

theorem absorbBytes_recordKept {c : Word} {bs : List Byte} {s t : State} (hrun : s.fault = false) (herr : s.err = true)
    (h : absorbBytes c bs s = .next t) : RecordKept s t := by
  obtain ⟨-, hkept⟩ | ⟨-, u, hkept, -, rfl⟩ := absorbBytes_record hrun h
  · exact hkept
  · exact hkept.trans (chunkOverflowFault_recordKept (hkept.err.trans herr) c)

theorem ExecStep.recordKept {i : Instr} {s t : State} (hstep : ExecStep s i t) (herr : s.err = true)
    (hclear : i ≠ .clearErr) (hreset : i ≠ .reset) : RecordKept s t := by
  cases hstep with
  | reset => exact absurd rfl hreset
  | cleared => exact absurd rfl hclear
  | rejected => exact recordError_recordKept herr ..
  | absorbed hrun _ _ hbytes => exact absorbBytes_recordKept (s := { s with outValid := false }) hrun herr hbytes
  | ignored | nop | inited | finalized | squeezed | compressed => exact ⟨rfl, rfl, rfl⟩

theorem WordStep.recordKept {c : Word} {s t : State} (hstep : WordStep s c t) (herr : s.err = true)
    (hclear : c ≠ encode .clearErr) (hreset : c ≠ encode .reset) : RecordKept s t := by
  cases hstep with
  | ignored => exact .refl s
  | illegal => exact recordError_recordKept herr ..
  | command hd hexec =>
    obtain rfl := eq_encode_of_decode hd
    exact hexec.recordKept herr (fun hi => hclear (congrArg encode hi)) fun hi => hreset (congrArg encode hi)

/-- Settles O19: the record kept is one with `S.err = 1`. -/
theorem firstErrorIsKept : Obligations.FirstErrorIsKept := by
  intro c s t herr h hclear hreset
  obtain ⟨hkept, hcode, hcmd⟩ := (executeWord_next h).recordKept herr hclear hreset
  exact ⟨hkept.trans herr, hcode, hcmd⟩

/-! ### What an error records and what else it does (R231, R239) -/

theorem Rejects.code_ne_counterOverflow {i : Instr} {s : State} {e : ErrCode} (h : Rejects i s e) :
    e ≠ .counterOverflow := by
  rintro rfl
  cases i <;> simp [Rejects] at h

/-- A byte loop that raises an error takes the overflow fault. -/
theorem absorbBytes_raised {c : Word} {bs : List Byte} {s t : State} (hrun : s.fault = false) (hclear : s.err = false)
    (h : absorbBytes c bs s = .next t) (herr : t.err = true) :
    t.errcode = .counterOverflow ∧ t.errCmd = c ∧ t.fault = true := by
  obtain ⟨-, hkept⟩ | ⟨-, u, hkept, -, rfl⟩ := absorbBytes_record hrun h
  · exact absurd (hkept.err.symm.trans herr) (by simp [hclear])
  · rw [chunkOverflowFault, recordError_of_clear (hkept.err.trans hclear)]
    exact ⟨rfl, rfl, rfl⟩

/-- A command that raises an error was rejected and changed the record only, or was an `ABSORB` that took the overflow fault. -/
theorem ExecStep.raised {i : Instr} {s t : State} (hstep : ExecStep s i t) (hclear : s.err = false) (herr : t.err = true) :
    (∃ e, Rejects i s e ∧ t = { s with err := true, errcode := e, errCmd := encode i }) ∨
    (∃ n, i = .absorb n ∧ s.ready = true ∧ n ≤ 64) ∧
      t.errcode = .counterOverflow ∧ t.errCmd = encode i ∧ t.fault = true := by
  cases hstep with
  | rejected _ hrej => exact .inl ⟨_, hrej, recordError_of_clear hclear ..⟩
  | absorbed hrun hready hn hbytes =>
    exact .inr ⟨⟨_, rfl, hready, hn⟩, absorbBytes_raised (s := { s with outValid := false }) hrun hclear hbytes herr⟩
  | reset | cleared => cases herr
  | _ => exact (Bool.false_ne_true (hclear.symm.trans herr)).elim

/-- Settles O20: the checks of R239 are those of `Rejects`, and R239's one further error is the overflow fault of `ABSORB`. -/
theorem errorsOfEachCommand : Obligations.ErrorsOfEachCommand := by
  intro i s t _ hclear h herr
  obtain ⟨e, hrej, rfl⟩ | ⟨⟨n, rfl, hready, hn⟩, hcode, hcmd, hfault⟩ := (exec_next h).raised hclear herr
  · refine ⟨rfl, ?_⟩
    cases i with
    | absorb n => exact hrej.imp_right .inl
    | _ => exact hrej
  · exact ⟨hcmd, .inr (.inr ⟨hready, hn, hcode, hfault⟩)⟩

/-- An error raised by a word changes the record only, or is the overflow fault. -/
theorem WordStep.raised {c : Word} {s t : State} (hstep : WordStep s c t) (hclear : s.err = false) (herr : t.err = true) :
    (∃ e, e ≠ .counterOverflow ∧ t = { s with err := true, errcode := e, errCmd := c }) ∨
    (t.errcode = .counterOverflow ∧ t.fault = true) := by
  cases hstep with
  | ignored => exact (Bool.false_ne_true (hclear.symm.trans herr)).elim
  | illegal => exact .inl ⟨.illegalCommand, by decide, recordError_of_clear hclear ..⟩
  | command hd hexec =>
    obtain rfl := eq_encode_of_decode hd
    obtain ⟨e, hrej, ht⟩ | ⟨-, hcode, -, hfault⟩ := hexec.raised hclear herr
    · exact .inl ⟨e, hrej.code_ne_counterOverflow, ht⟩
    · exact .inr ⟨hcode, hfault⟩

/-- Settles O21: `S.err` is set by a word only, and that word changed the record alone or took the overflow fault. -/
theorem errorHasNoOtherEffect : Obligations.ErrorHasNoOtherEffect := by
  refine ⟨fun e s t h hclear herr => ?source, fun c s t hrun hclear h herr => ?effect⟩
  case source =>
    obtain ⟨-, hword⟩ := (serve_next h).err_set hclear herr
    exact hword
  case effect =>
    obtain ⟨e, he, rfl⟩ | ⟨hcode, hfault⟩ := (executeWord_next h).raised hclear herr
    · exact ⟨fun _ => rfl, fun hcode => absurd hcode he, fun hfault => absurd (hrun.symm.trans hfault) (by decide)⟩
    · exact ⟨fun hne => absurd hcode hne, fun _ => hfault, fun _ => hcode⟩

end Sys2Proof.Machine
end

section
/-! # Proofs: reset and hazards (`70_reset_and_hazards.md`)

`KEY` and `CMP_OUT` are bystanders of a hash: apart from `INIT_KEYED`, which samples `KEY`, and `COMPRESS` and `RESET`, which
write `CMP_OUT`, a command reads neither and keeps both. So replacing the two commutes with every other command
(`exec_withBystanders`), which is R269 for one of the registers and R272 for the other. -/

namespace Sys2Proof.Machine

/-! ### Reset (R260) -/

/-- Settles O12: both reset events are the reset action, whose fields are the literals of R58. -/
theorem resetActionGivesTheResetState : Obligations.ResetActionGivesTheResetState :=
  fun _ => ⟨rfl, rfl, rfl⟩

/-! ### Other values in `KEY` and `CMP_OUT` -/

/-- `s` with other values in `KEY` and `CMP_OUT`. -/
def withBystanders (k : Cv) (w : Words16) (s : State) : State := { s with key := k, cmpOut := w }

section
variable (k : Cv) (w : Words16)

theorem withBystanders_of_cmpOut {s : State} (h : s.cmpOut = w) : withBystanders k w s = { s with key := k } := by
  rw [← h]
  rfl

theorem withBystanders_of_key {s : State} (h : s.key = k) : withBystanders k w s = { s with cmpOut := w } := by
  rw [← h]
  rfl

/-! ### `ABSORB` reads neither register -/

theorem recordError_withBystanders (e : ErrCode) (c : Word) (s : State) :
    recordError e c (withBystanders k w s) = withBystanders k w (recordError e c s) := by
  unfold recordError withBystanders
  split <;> rfl

theorem chunkOverflowFault_withBystanders (c : Word) (s : State) :
    chunkOverflowFault c (withBystanders k w s) = withBystanders k w (chunkOverflowFault c s) := by
  rw [chunkOverflowFault, recordError_withBystanders]
  rfl

theorem bufferByte_withBystanders (x : Byte) (s : State) :
    bufferByte x (withBystanders k w s) = withBystanders k w (bufferByte x s) := by
  unfold bufferByte withBystanders
  split <;> rfl

theorem merge_withBystanders {ccv : Cv} {total : Counter} {s s' : State} (h : merge ccv total s = some s') :
    merge ccv total (withBystanders k w s) = some (withBystanders k w s') := by
  obtain ⟨st, hloop, rfl⟩ := merge_some h
  simp [merge, withBystanders, hloop]

theorem ByteStep.map_withBystanders {x : Byte} {s t : State} (h : ByteStep x s t) :
    ByteStep x (withBystanders k w s) (withBystanders k w t) := by
  cases h with
  | buffered hroom =>
    rw [← bufferByte_withBystanders]
    exact .buffered hroom
  | rotated hfull hctr hmerge =>
    rw [← bufferByte_withBystanders]
    exact .rotated (s := withBystanders k w s) hfull hctr (merge_withBystanders k w hmerge)

theorem absorbByte_withBystanders {c : Word} {x : Byte} {s t : State} (hrun : s.fault = false)
    (h : absorbByte c x s = .next t) :
    absorbByte c x (withBystanders k w s) = .next (withBystanders k w t) := by
  obtain ⟨hf, -⟩ | ⟨hover, rfl⟩ := absorbByte_record hrun h
  · have hstep := ((absorbByte_iff_byteStep hrun).1 ⟨h, hf⟩).map_withBystanders k w
    exact ((absorbByte_iff_byteStep (s := withBystanders k w s) hrun).2 hstep).1
  · rw [← chunkOverflowFault_withBystanders]
    exact absorbByte_of_atOverflow (s := withBystanders k w s) hover c x

theorem absorbBytes_withBystanders {c : Word} {bs : List Byte} {s t : State} (hrun : s.fault = false)
    (h : absorbBytes c bs s = .next t) :
    absorbBytes c bs (withBystanders k w s) = .next (withBystanders k w t) := by
  induction bs generalizing s with
  | nil =>
    cases h
    rfl
  | cons x xs ih =>
    obtain ⟨s', hbyte, hrest⟩ := absorbBytes_cons_next h
    rw [absorbBytes, absorbByte_withBystanders k w hrun hbyte]
    obtain ⟨hfault, rfl⟩ | ⟨hrun', hrest⟩ := hrest
    · exact if_pos hfault
    · exact (if_neg (Bool.eq_false_iff.1 hrun')).trans (ih hrun' hrest)

/-! ### Every command that neither samples `KEY` nor writes `CMP_OUT` -/

theorem Rejects.map_withBystanders {i : Instr} {s : State} {e : ErrCode} (h : Rejects i s e) :
    Rejects i (withBystanders k w s) e := by
  cases i <;> exact h

theorem Inits.map_withBystanders {i : Instr} {s : State} {seed : Cv} {m : Mode}
    (hkey : ∀ a, i = .initKeyed a → k = s.key) (h : Inits i s seed m) : Inits i (withBystanders k w s) seed m := by
  cases i with
  | initKeyed a =>
    obtain rfl := hkey a rfl
    exact h
  | _ => exact h

/-- R269, R272: other values of `KEY` and `CMP_OUT`, that of `KEY` for a command that does not sample it, are carried through
unread. -/
theorem exec_withBystanders {i : Instr} {s t : State} (hreset : i ≠ .reset) (hcompress : i ≠ .compress)
    (hkey : ∀ a, i = .initKeyed a → k = s.key) (h : exec i s = .next t) :
    exec i (withBystanders k w s) = .next (withBystanders k w t) := by
  cases exec_next h with
  | ignored _ hfault => exact exec_of_fault (s := withBystanders k w s) hfault hreset
  | reset => exact absurd rfl hreset
  | compressed => exact absurd rfl hcompress
  | rejected hrun hrej =>
    rw [exec_of_rejects (s := withBystanders k w s) hrun (hrej.map_withBystanders k w), recordError_withBystanders]
  | inited hrun hinit => exact exec_of_inits (s := withBystanders k w s) hrun (hinit.map_withBystanders k w hkey)
  | absorbed hrun hready hn hbytes =>
    rw [exec_absorb_of_running (s := withBystanders k w s) hrun hready hn]
    exact absorbBytes_withBystanders k w (s := { s with outValid := false }) hrun hbytes
  | finalized hrun hready => exact exec_finalize_of_running (s := withBystanders k w s) hrun hready
  | squeezed hrun hready hvalid => exact exec_squeeze_of_running (s := withBystanders k w s) hrun hready hvalid
  | nop hrun | cleared hrun => exact unlessFaulted_of_running (s := withBystanders k w s) hrun _

end

/-! ### `KEY` (R269) -/

/-- `COMPRESS` does not read `KEY` either. -/
theorem exec_compress_withKey {s t : State} (k : Cv) (h : exec .compress s = .next t) :
    exec .compress { s with key := k } = .next { t with key := k } := by
  cases exec_next h with
  | ignored hi hfault => exact exec_of_fault (s := { s with key := k }) hfault hi
  | compressed hrun => exact unlessFaulted_of_running (s := { s with key := k }) hrun _
  | rejected _ hrej => exact hrej.elim
  | inited _ hinit => exact hinit.elim

/-- A command but `COMPRESS` and `RESET` keeps `CMP_OUT` (R48). -/
theorem exec_keeps_cmpOut {i : Instr} {s t : State} (hcompress : i ≠ .compress) (hreset : i ≠ .reset) (h : exec i s = .next t) :
    t.cmpOut = s.cmpOut := by
  obtain ⟨-, hcmp⟩ := (exec_next h).outputRegisters hreset
  exact hcmp.resolve_right hcompress

/-- Settles O25: `COMPRESS` does not read `KEY`, and any other command carries the other `KEY` through beside the `CMP_OUT` there is. -/
theorem keySampledOnlyByInitKeyed : Obligations.KeySampledOnlyByInitKeyed := by
  refine ⟨fun i s t k hkeyed hreset h => ?unread, fun _ _ => rfl, fun s k hrun => ?sampled⟩
  case unread =>
    obtain rfl | hcompress := eq_or_ne i .compress
    · exact exec_compress_withKey k h
    · have hexec := exec_withBystanders k s.cmpOut hreset hcompress (fun a ha => absurd ha (hkeyed a)) h
      rwa [withBystanders_of_cmpOut k _ rfl, withBystanders_of_cmpOut k _ (exec_keeps_cmpOut hcompress hreset h)] at hexec
  case sampled =>
    have hinit : Inits (.initKeyed 32) { s with key := k } k .keyed := ⟨rfl, rfl, rfl⟩
    exact ⟨_, exec_of_inits (s := { s with key := k }) hrun hinit, rfl, rfl, rfl, rfl, rfl⟩

/-! ### `COMPRESS` between the commands of a hash (R272) -/

/-- `COMPRESS` changes nothing but `CMP_OUT`. -/
theorem eq_of_exec_compress {s t : State} (h : exec .compress s = .next t) : t = { s with cmpOut := t.cmpOut } := by
  cases exec_next h with
  | ignored | compressed => rfl
  | rejected _ hrej => exact hrej.elim
  | inited _ hinit => exact hinit.elim

/-- Settles O26: what a `COMPRESS` changes is a bystander of the command after it. -/
theorem compressInterleaves : Obligations.CompressInterleaves := by
  refine ⟨fun _ _ _ => exec_keeps_cmpOut, fun i s s' t hcompress hreset hc h => ?_⟩
  have hexec := exec_withBystanders s.key s'.cmpOut hreset hcompress (fun _ _ => rfl) h
  obtain ⟨hkey, -⟩ := (exec_next h).operandsKept hreset
  rwa [withBystanders_of_key _ _ rfl, ← eq_of_exec_compress hc, withBystanders_of_key _ _ hkey] at hexec

end Sys2Proof.Machine
end
